-- ==== Sys2Proof/Word.lean ====
section
/-! DEFINITION. Words, the two directions of a bus access, and the sparse table that holds one value per
source or per context. -/

namespace Sys2Proof

/-- The value a 32-bit register holds and an access exchanges (R13, R54). Bit 0 is its least
significant bit (R13, PRESUMED: log entry 19). -/
abbrev Word := BitVec 32

/-- The 27-bit access word `dir ++ off[25:0]` of R80. -/
abbrev AccessWord := BitVec 27

/-- What an access does to the offset it names: `dir` and `data` of R80, where data is absent for a
read. -/
inductive Access where
  /-- `dir = 0`: a 32-bit read. -/
  | read
  /-- `dir = 1`: a 32-bit write of `v`. -/
  | write (v : Word)
deriving DecidableEq, Repr

/-- One value for each index, as plain data: `dflt` everywhere but at the indices listed in `exc`.
Its operations are in `Machine/Table.lean`. -/
structure Table (α : Type) where
  /-- The value at every index that `exc` does not list. -/
  dflt : α
  /-- The indices whose value differs from `dflt`, in rising order. -/
  exc : List (Nat × α)
deriving DecidableEq, Repr

end Sys2Proof
end

