-- ==== Sys2Proof/Config.lean ====
section
/-! DEFINITION. The implementation parameters of R7 to R12 as plain data, the reference configuration T
of the test vectors, and the one free value of the model. -/

namespace Sys2Proof

/-- The kind of a source's gateway, fixed by the implementation (R12, R161). -/
inductive GwKind where
  /-- Level-triggered (R163). -/
  | level
  /-- Edge-triggered, ignoring the edges that arrive before the completion (R165). -/
  | edgeIgnore
  /-- Edge-triggered, counting the edges that arrive before the completion (R165, R166). -/
  | edgeCount
deriving DecidableEq, Repr

/-- The privilege modes that have contexts in this version (R207). -/
inductive PrivMode where
  | machine
  | supervisor
deriving DecidableEq, Repr

/-- Who receives the notification of a context: `CTX_MAP` of R12, R185. -/
inductive Target where
  /-- One privilege mode on one hart (R193). -/
  | hart (h : Nat) (m : PrivMode)
  /-- A target that is no hart, such as a DMA engine (R185, R193). -/
  | other
deriving DecidableEq, Repr

/-- What an access to a reserved offset does: the two values of `RESERVED_ACCESS` (R12, R91). -/
inductive ReservedAccess where
  | refuse
  | readZeroIgnoreWrite
deriving DecidableEq, Repr

/-- The implementation parameters. No step changes them (spec 10_state.md, head). -/
structure Config where
  /-- `PLIC_BASE`, the address of offset 0 (R9). -/
  base : Nat
  /-- `NSRC`: the implemented sources are 1..NSRC (R7). -/
  nsrc : Nat
  /-- `NCTX`: the implemented contexts are 0..NCTX-1 (R8). -/
  nctx : Nat
  /-- `PRIO_RW_MASK[N]` (R10). -/
  prioRwMask : Table Word
  /-- `PRIO_FIXED[N]` (R10). -/
  prioFixed : Table Word
  /-- `THR_RW_MASK[c]` (R11). -/
  thrRwMask : Table Word
  /-- `THR_FIXED[c]` (R11). -/
  thrFixed : Table Word
  /-- `IE_HARD0[c][N]`: the enable bit is hardwired to 0 (R12, R124). -/
  ieHard0 : Table (Table Bool)
  /-- `IE_HARD1[c][N]`: the enable bit is hardwired to 1 (R12, R124). -/
  ieHard1 : Table (Table Bool)
  /-- `GW_KIND[N]` (R12, R161). -/
  gwKind : Table GwKind
  /-- `GW_COUNT_MAX[N]` (R12, R166). -/
  gwCountMax : Table Nat
  /-- `CTX_MAP[c]` (R12, R125); read by no rule of the PLIC. -/
  ctxMap : Table Target
  /-- `CLAIM_SKIPS_PRIO0` (R12, R106). -/
  claimSkipsPrio0 : Bool
  /-- `RESERVED_ACCESS` (R12, R91). -/
  reservedAccess : ReservedAccess
deriving DecidableEq, Repr

/-- The reference configuration T of 95_test_vectors.md. T does not list `RESERVED_ACCESS`, whose
default in R12 is `refuse`. -/
def Config.reference : Config where
  base := 0x0C000000
  nsrc := 40
  nctx := 2
  prioRwMask := ⟨0x7, []⟩
  prioFixed := ⟨0, []⟩
  thrRwMask := ⟨0x7, []⟩
  thrFixed := ⟨0, []⟩
  ieHard0 := ⟨⟨false, []⟩, []⟩
  ieHard1 := ⟨⟨false, []⟩, []⟩
  gwKind := ⟨.level, [(31, .edgeIgnore), (32, .edgeCount)]⟩
  gwCountMax := ⟨1, [(32, 3)]⟩
  ctxMap := ⟨.other, [(0, .hart 0 .machine), (1, .hart 1 .machine)]⟩
  claimSkipsPrio0 := true
  reservedAccess := .refuse

/-- The configuration of `State.reset` (DESIGN CHOICE, log entries 1 and 2): T, with the value of
`RESERVED_ACCESS` that gives a reserved access an effect. -/
def Config.atReset : Config := { Config.reference with reservedAccess := .readZeroIgnoreWrite }

/-- FREE VALUE (log entry 5). Which of the enabled gateway and notification steps is taken, and with
which `k`, is not determined (R16, R170, R182): the choice numbered `n` is this constant, which has
no body, taken modulo the number of choices. -/
opaque Config.freeChoice : Nat → Nat

end Sys2Proof
end

