-- ==== Sys2Proof/Syntax.lean ====
section
/-! DEFINITION. The operations of the opcode table: one constructor for each of its fourteen rows. -/

namespace Sys2Proof

/-- The bus operations of R90 and the four reserved classes of R91, with the operands R94 writes:
`n` a source number, `w` a word index, `c` a context number, `v` the 32-bit data of a write.
The reserved classes keep the fields of the offset they stand for, so that no bit is lost. -/
inductive Instr where
  /-- PRIORITY.RD N (R102). -/
  | priorityRd (n : Nat)
  /-- PRIORITY.WR N, v (R103). -/
  | priorityWr (n : Nat) (v : Word)
  /-- PENDING.RD w (R111). -/
  | pendingRd (w : Nat)
  /-- PENDING.WR w, v (R112). -/
  | pendingWr (w : Nat) (v : Word)
  /-- ENABLE.RD c, w (R121). -/
  | enableRd (c w : Nat)
  /-- ENABLE.WR c, w, v (R122). -/
  | enableWr (c w : Nat) (v : Word)
  /-- THRESHOLD.RD c (R131). -/
  | thresholdRd (c : Nat)
  /-- THRESHOLD.WR c, v (R132). -/
  | thresholdWr (c : Nat) (v : Word)
  /-- CLAIM c (R142): a read of the claim/complete register. -/
  | claim (c : Nat)
  /-- COMPLETE c, v (R151): a write of the claim/complete register. -/
  | complete (c : Nat) (v : Word)
  /-- RESERVED.SRC0: offset 0, the priority slot of the source that does not exist (R91). -/
  | reservedSrc0 (a : Access)
  /-- RESERVED.GAP1: offset `0x80*cc + 4*w` between the pending and the enable block (R91). -/
  | reservedGap1 (cc w : Nat) (a : Access)
  /-- RESERVED.GAP2: offset `0x80*cc + 4*w` between the enable block and the context blocks (R91). -/
  | reservedGap2 (cc w : Nat) (a : Access)
  /-- RESERVED.CTX: offset `4*r` of the block of context `c` (R88, R91). -/
  | reservedCtx (c r : Nat) (a : Access)
deriving DecidableEq, Repr

end Sys2Proof
end

