-- ==== Sys2Proof/Machine/State.lean ====
section
/-! DEFINITION. The state of the PLIC, the reasons a step can stop, and the state after reset. -/

namespace Sys2Proof.Machine

/-- What an agent's access does on the bus. The device's operations are the first two (R54, R55). -/
inductive AccessKind where
  /-- A load (`lw`). -/
  | load
  /-- A store (`sw`). -/
  | store
  /-- An instruction fetch (R65). -/
  | fetch
  /-- An atomic memory operation (R64). -/
  | amo
  /-- A load-reserved (R64). -/
  | loadReserved
  /-- A store-conditional (R64). -/
  | storeConditional
deriving DecidableEq, Repr

/-- One access of an agent to the platform's address space (R54). The PLIC does not identify the agent
(R67). -/
structure BusAccess where
  kind : AccessKind
  /-- The byte address; the register region begins at `PLIC_BASE` (R50). -/
  addr : Nat
  /-- The number of bytes accessed. -/
  size : Nat
  /-- The value a 32-bit store supplies; a load's is ignored. -/
  data : Word
deriving DecidableEq, Repr

/-- The steps the PLIC takes of itself (R16): they have an enabling condition and no encoding (R94). -/
inductive AgentStep where
  /-- GW.LEVEL N (R163). -/
  | gwLevel (n : Nat)
  /-- GW.COUNTED N (R167). -/
  | gwCounted (n : Nat)
  /-- NOTIFY c, delivering the first `k` queued changes (R182). -/
  | notify (c k : Nat)
deriving DecidableEq, Repr

/-- The steps of the environment (R169); the PLIC can refuse none of them. -/
inductive EnvStep where
  /-- SIG N, l: the level of source N's signal becomes l. -/
  | sig (n : Nat) (l : Bool)
  /-- EDGE N: a valid edge of source N arrives. -/
  | edge (n : Nat)
  /-- A decoded message-signalled interrupt that names source N arrives (R168). -/
  | msi (n : Nat)
deriving DecidableEq, Repr

/-- One step of the total order of R60. -/
inductive Event where
  | bus (b : BusAccess)
  | agent (a : AgentStep)
  | env (e : EnvStep)
deriving DecidableEq, Repr

/-- Why the machine stops with a fault. -/
inductive Fault where
  /-- Raised by `fetch` for an access whose address lies outside the 0x4000000-byte region of R50: the
  access is not to the PLIC at all (95_test_vectors.md 2.1). Safe: the model stops (log entry 8). -/
  | outsideRegion
deriving DecidableEq, Repr

/-- Why the model gives an access no meaning: `refuse(reason)` of R15. -/
inductive Refusal where
  /-- Raised by an arm of `exec` that has no meaning; no arm is without one. Safe: the model stops. -/
  | notModelled (mnemonic : String)
  /-- Raised by `fetch` for an access whose size is not 4 bytes (R56, `refuse(width)`). Safe. -/
  | width
  /-- Raised by `fetch` for an offset that is no multiple of 4 (R56, `refuse(misaligned)`). Safe. -/
  | misaligned
  /-- Raised by `fetch` for an instruction fetch from the region (R65). Safe. -/
  | instructionFetch
  /-- Raised by `fetch` for an atomic memory operation, a load-reserved or a store-conditional (R64). Safe. -/
  | atomicOperation
  /-- Raised by the four RESERVED meanings where the parameter `RESERVED_ACCESS` is `refuse` (R91). Safe. -/
  | reserved
deriving DecidableEq, Repr

/-- Everything the spec gives the PLIC (R20 to R36), the levels at its inputs (R34), and four fields of
the model's own: `cfg`, `rdata`, `todo` and `seq`. -/
structure State where
  /-- The implementation parameters (R7 to R12); changed by no step (log entry 1). -/
  cfg : Config
  /-- `prio[N]` (R22). -/
  prio : Table Word
  /-- `ip[N]` (R24). -/
  ip : Table Bool
  /-- `ie[c][N]` (R25): the outer index is the context. -/
  ie : Table (Table Bool)
  /-- `thr[c]` (R26). -/
  thr : Table Word
  /-- `gw_busy[N]` (R31). -/
  gwBusy : Table Bool
  /-- `gw_count[N]` (R32). -/
  gwCount : Table Nat
  /-- `notif[c]` (R33). -/
  notif : Table Bool
  /-- `nq[c]` (R33, R182): the changes of `eip(c)` not yet delivered, oldest first. -/
  nq : Table (List Bool)
  /-- `sig[N]` (R34): the present level at the gateway of source N. -/
  sig : Table Bool
  /-- The value the last read returned to the agent that made it (R54); `none` before the first read
  (log entry 7). -/
  rdata : Option Word
  /-- The steps of the total order of R60 that are to come, the next one first (log entry 4). -/
  todo : List Event
  /-- How many free choices the machine has taken (log entry 5). -/
  seq : Nat
deriving DecidableEq, Repr

/-- The simulator's reset state of R40 and R41 for a configuration: `prio = PRIO_FIXED`,
`thr = THR_FIXED`, `ie` the hardwired constants, all else zero and every queue empty (DESIGN CHOICE:
the spec states no reset value, log entry 3). -/
def State.resetOf (cfg : Config) : State where
  cfg := cfg
  prio := cfg.prioFixed
  ip := ⟨false, []⟩
  ie := cfg.ieHard1
  thr := cfg.thrFixed
  gwBusy := ⟨false, []⟩
  gwCount := ⟨0, []⟩
  notif := ⟨false, []⟩
  nq := ⟨[], []⟩
  sig := ⟨false, []⟩
  rdata := none
  todo := []
  seq := 0

/-- The machine right after reset (log entries 1, 2 and 3). -/
def State.reset : State := State.resetOf Config.atReset

end Sys2Proof.Machine
end

