-- ==== Sys2Proof/Machine/Table.lean ====
section
/-! DEFINITION. Reading and writing a table, and its canonical form: indices strictly rising, no entry
equal to the default. Equal tables are then equal data (log entry 24). -/

namespace Sys2Proof

/-- The value listed for `i`, else `d`. -/
def findEntry {α : Type} (i : Nat) (d : α) : List (Nat × α) → α
  | [] => d
  | (k, v) :: l => if k = i then v else findEntry i d l

/-- The entries but those of `i`. -/
def dropEntry {α : Type} (i : Nat) (l : List (Nat × α)) : List (Nat × α) :=
  l.filter fun e => decide (e.1 ≠ i)

/-- `i` with value `v` put before the first index that is not below it. -/
def insertEntry {α : Type} (i : Nat) (v : α) : List (Nat × α) → List (Nat × α)
  | [] => [(i, v)]
  | e :: l => if i ≤ e.1 then (i, v) :: e :: l else e :: insertEntry i v l

/-- The value of a table at an index. -/
def Table.get {α : Type} (t : Table α) (i : Nat) : α := findEntry i t.dflt t.exc

/-- The table with the value at one index replaced; the default value is never listed. -/
def Table.set {α : Type} [DecidableEq α] (t : Table α) (i : Nat) (v : α) : Table α :=
  { t with exc := if v = t.dflt then dropEntry i t.exc else insertEntry i v (dropEntry i t.exc) }

/-- Every index of the list is above `i`, and the indices rise strictly. -/
def risingAbove {α : Type} (i : Nat) : List (Nat × α) → Bool
  | [] => true
  | e :: l => decide (i < e.1) && risingAbove e.1 l

/-- The indices of the list rise strictly. -/
def rising {α : Type} : List (Nat × α) → Bool
  | [] => true
  | e :: l => risingAbove e.1 l

/-- The canonical form of a table. -/
def Table.wf {α : Type} [DecidableEq α] (t : Table α) : Bool :=
  rising t.exc && t.exc.all fun e => decide (e.2 ≠ t.dflt)

end Sys2Proof
end

