-- ==== Sys2Proof/Machine/Ops.lean ====
section
/-! DEFINITION. The named operations over the state: reading each register bank where it exists, writing
it, answering a read. The PLIC raises no exception (R190), has no pc (R205) and no return operation
(R202), so no exception entry stands here; what it does towards a target is `deliver` of Notify.lean. -/

namespace Sys2Proof.Machine

/-- What every meaning answers with. -/
abbrev Result := Host.Outcome State Fault Refusal

/-- Source `n` is implemented: 1..NSRC (R7). -/
def State.hasSource (s : State) (n : Nat) : Bool := decide (1 ≤ n) && decide (n ≤ s.cfg.nsrc)

/-- Context `c` is implemented: 0..NCTX-1 (R8). -/
def State.hasContext (s : State) (c : Nat) : Bool := decide (c < s.cfg.nctx)

/-- `prio[N]`; 0 for a source the implementation lacks (R22, R92). -/
def State.prioAt (s : State) (n : Nat) : Word := if s.hasSource n then s.prio.get n else 0

/-- `ip[N]`; constantly 0 for ID 0 and above NSRC (R24). -/
def State.ipAt (s : State) (n : Nat) : Bool := s.hasSource n && s.ip.get n

/-- `ie[c][N]`; constantly 0 for ID 0, above NSRC and in a context the implementation lacks (R25, R28). -/
def State.ieAt (s : State) (c n : Nat) : Bool :=
  s.hasContext c && (s.hasSource n && (s.ie.get c).get n)

/-- `thr[c]`; 0 for a context the implementation lacks (R26, R92). -/
def State.thrAt (s : State) (c : Nat) : Word := if s.hasContext c then s.thr.get c else 0

/-- `gw_busy[N]` (R31); a source the implementation lacks has no gateway. -/
def State.busyAt (s : State) (n : Nat) : Bool := s.hasSource n && s.gwBusy.get n

/-- `GW_KIND[N]` (R12). -/
def State.kindOf (s : State) (n : Nat) : GwKind := s.cfg.gwKind.get n

/-- The gateway of source `n` has a pending counter (R32). -/
def State.counts (s : State) (n : Nat) : Bool := s.hasSource n && decide (s.kindOf n = .edgeCount)

/-- `gw_count[N]`; constantly 0 for the gateways without a counter (R32). -/
def State.countAt (s : State) (n : Nat) : Nat := if s.counts n then s.gwCount.get n else 0

/-- `sig[N]` (R34). -/
def State.sigAt (s : State) (n : Nat) : Bool := s.hasSource n && s.sig.get n

/-- `notif[c]` (R33). -/
def State.notifAt (s : State) (c : Nat) : Bool := s.hasContext c && s.notif.get c

/-- `nq[c]` (R33). -/
def State.nqAt (s : State) (c : Nat) : List Bool := if s.hasContext c then s.nq.get c else []

/-- `IE_HARD0[c][N]` (R12). -/
def State.hard0 (s : State) (c n : Nat) : Bool := (s.cfg.ieHard0.get c).get n

/-- `IE_HARD1[c][N]` (R12). -/
def State.hard1 (s : State) (c n : Nat) : Bool := (s.cfg.ieHard1.get c).get n

/-- The enable bit is a read-write bit: source and context exist and it is not hardwired (R25, R122). -/
def State.ieWritable (s : State) (c n : Nat) : Bool :=
  s.hasContext c && (s.hasSource n && (!s.hard0 c n && !s.hard1 c n))

/-- `prio[N] <- v`. -/
def State.setPrio (s : State) (n : Nat) (v : Word) : State := { s with prio := s.prio.set n v }

/-- `ip[N] <- b`. -/
def State.setIp (s : State) (n : Nat) (b : Bool) : State := { s with ip := s.ip.set n b }

/-- `ie[c] <- row`. -/
def State.setIeRow (s : State) (c : Nat) (row : Table Bool) : State :=
  { s with ie := s.ie.set c row }

/-- `thr[c] <- v`. -/
def State.setThr (s : State) (c : Nat) (v : Word) : State := { s with thr := s.thr.set c v }

/-- `gw_busy[N] <- b`. -/
def State.setBusy (s : State) (n : Nat) (b : Bool) : State := { s with gwBusy := s.gwBusy.set n b }

/-- `gw_count[N] <- k`. -/
def State.setCount (s : State) (n k : Nat) : State := { s with gwCount := s.gwCount.set n k }

/-- `sig[N] <- l`. -/
def State.setSig (s : State) (n : Nat) (l : Bool) : State := { s with sig := s.sig.set n l }

/-- `notif[c] <- b`. -/
def State.setNotif (s : State) (c : Nat) (b : Bool) : State := { s with notif := s.notif.set c b }

/-- `nq[c] <- l`. -/
def State.setNq (s : State) (c : Nat) (l : List Bool) : State := { s with nq := s.nq.set c l }

/-- The steps to come are `l`. -/
def State.setTodo (s : State) (l : List Event) : State := { s with todo := l }

/-- One more free choice has been taken (log entry 5). -/
def State.nextChoice (s : State) : State := { s with seq := s.seq + 1 }

/-- The read is answered with `v` (R54). -/
def State.respond (s : State) (v : Word) : State := { s with rdata := some v }

/-- The gateway of source `n` forwards a request: always both bits in one step (R162). A pending bit
already set stays set (R153 case 3). -/
def State.forward (s : State) (n : Nat) : State := (s.setBusy n true).setIp n true

end Sys2Proof.Machine
end

