-- ==== Sys2Proof/Machine/Arbitration.lean ====
section
/-! DEFINITION. The arbitration order of R104 and the selection of R141. -/

namespace Sys2Proof.Machine

/-- `beats(N, M)`: the higher priority, and the smaller ID among equals (R104). -/
def State.beats (s : State) (n m : Nat) : Bool :=
  decide (s.prioAt m < s.prioAt n) || (decide (s.prioAt n = s.prioAt m) && decide (n < m))

/-- `N` is in `cand(c)`: pending, enabled for `c`, and of a priority that a claim may return (R141). The
threshold does not occur (R143). -/
def State.candidate (s : State) (c n : Nat) : Bool :=
  s.ipAt n && (s.ieAt c n && (decide (0 < s.prioAt n) || !s.cfg.claimSkipsPrio0))

/-- The best candidate among the sources 1..k, or 0. -/
def State.bestUpTo (s : State) (c : Nat) : Nat → Nat
  | 0 => 0
  | k + 1 =>
    let b := State.bestUpTo s c k
    if s.candidate c (k + 1) && (decide (b = 0) || s.beats (k + 1) b) then k + 1 else b

/-- `best(c)`: the source a claim by context `c` returns, or 0 (R141). -/
def State.best (s : State) (c : Nat) : Nat := s.bestUpTo c s.cfg.nsrc

end Sys2Proof.Machine
end

