-- ==== Sys2Proof/Machine/Operands.lean ====
section
/-! DEFINITION. The operand forms: WARL values, the packing of source bits into words, IDs. -/

namespace Sys2Proof.Machine

/-- The mask law of R101: the read-write bits take the written bits, the others keep their constants. -/
def warl (mask fixed v : Word) : Word := (v &&& mask) ||| fixed

/-- `legal_prio(N, v)` (R101). -/
def State.legalPrio (s : State) (n : Nat) (v : Word) : Word :=
  warl (s.cfg.prioRwMask.get n) (s.cfg.prioFixed.get n) v

/-- `legal_thr(c, v)` (R134). -/
def State.legalThr (s : State) (c : Nat) (v : Word) : Word :=
  warl (s.cfg.thrRwMask.get c) (s.cfg.thrFixed.get c) v

/-- The source that bit `b` of word `w` stands for (R86). -/
def sourceOf (w b : Nat) : Nat := 32 * w + b

/-- The value whose bits below `k` are `f`, and whose other bits are 0. -/
def gatherBits (f : Nat → Bool) : Nat → Word
  | 0 => 0
  | k + 1 => if f k then gatherBits f k ||| BitVec.twoPow 32 k else gatherBits f k

/-- The 32-bit word whose bit `b` is `f b` (R28, R111, R121). -/
def wordOfBits (f : Nat → Bool) : Word := gatherBits f 32

/-- An interrupt ID as the 32-bit value a claim returns, zero-extended (R89, R142). -/
def idWord (n : Nat) : Word := BitVec.ofNat 32 n

/-- The row of context `c` after the bits below `k` of word `w` are written with those of `v`: a bit that
is not read-write keeps its value (R122). -/
def State.enableRow (s : State) (c w : Nat) (v : Word) : Nat → Table Bool
  | 0 => s.ie.get c
  | k + 1 =>
    if s.ieWritable c (sourceOf w k) then
      (State.enableRow s c w v k).set (sourceOf w k) (v.getLsbD k)
    else State.enableRow s c w v k

end Sys2Proof.Machine
end

