-- ==== Sys2Proof/Machine/Claim.lean ====
section
/-! DEFINITION. The interrupt claim (R140 to R146). -/

namespace Sys2Proof.Machine

/-- The claim of source `n`, or of nothing where `n` is 0: its pending bit falls and its ID is returned,
in one step (R64, R142). -/
def State.claimed (s : State) (n : Nat) : State :=
  (if n = 0 then s else s.setIp n false).respond (idWord n)

/-- CLAIM c (R142): the best candidate is claimed; a context the implementation lacks returns 0 and
nothing else happens (R92). -/
def execClaim (c : Nat) (s : State) : Result :=
  .next (if s.hasContext c then s.claimed (s.best c) else s.respond 0)

end Sys2Proof.Machine
end

