-- ==== Sys2Proof/Machine/Complete.lean ====
section
/-! DEFINITION. The interrupt completion (R150 to R154). -/

namespace Sys2Proof.Machine

/-- The completion of `v` by context `c` is accepted: the context exists and source `v`, all 32 bits
compared, is enabled for it at this moment (R151, R152). Whether `v` was claimed is not asked (R153). -/
def State.completionAccepted (s : State) (c : Nat) (v : Word) : Bool := s.ieAt c v.toNat

/-- COMPLETE c, v (R151): the gateway of `v` is freed, or the completion is silently ignored (R152). -/
def execComplete (c : Nat) (v : Word) (s : State) : Result :=
  .next (if s.completionAccepted c v then s.setBusy v.toNat false else s)

end Sys2Proof.Machine
end

