-- ==== Sys2Proof/Machine/Enable.lean ====
section
/-! DEFINITION. The enable arrays (R120 to R125). -/

namespace Sys2Proof.Machine

/-- ENABLE.RD c, w (R121): bit `b` is the enable bit of source `32*w + b` for context `c`. -/
def execEnableRd (c w : Nat) (s : State) : Result :=
  .next (s.respond (wordOfBits fun b => s.ieAt c (sourceOf w b)))

/-- ENABLE.WR c, w, v (R122): all the read-write bits of the word are replaced at once. -/
def execEnableWr (c w : Nat) (v : Word) (s : State) : Result :=
  .next (if s.hasContext c then s.setIeRow c (s.enableRow c w v 32) else s)

end Sys2Proof.Machine
end

