-- ==== Sys2Proof/Machine/Pending.lean ====
section
/-! DEFINITION. The pending array (R110 to R112). -/

namespace Sys2Proof.Machine

/-- PENDING.RD w (R111): bit `b` is the pending bit of source `32*w + b`. -/
def execPendingRd (w : Nat) (s : State) : Result :=
  .next (s.respond (wordOfBits fun b => s.ipAt (sourceOf w b)))

/-- PENDING.WR w, v (R112): accepted, and nothing changes. -/
def execPendingWr (_w : Nat) (_v : Word) (s : State) : Result := .next s

end Sys2Proof.Machine
end

