-- ==== Sys2Proof/Machine/Priority.lean ====
section
/-! DEFINITION. The priority registers (R100 to R103). -/

namespace Sys2Proof.Machine

/-- PRIORITY.RD N (R102): the priority, or 0 for a source the implementation lacks (R92). -/
def execPriorityRd (n : Nat) (s : State) : Result := .next (s.respond (s.prioAt n))

/-- PRIORITY.WR N, v (R103): the legalised value is stored; ignored for a source the implementation
lacks (R92). -/
def execPriorityWr (n : Nat) (v : Word) (s : State) : Result :=
  .next (if s.hasSource n then s.setPrio n (s.legalPrio n v) else s)

end Sys2Proof.Machine
end

