-- ==== Sys2Proof/Machine/Reserved.lean ====
section
/-! DEFINITION. The reserved offsets (R91). -/

namespace Sys2Proof.Machine

/-- An access to a reserved offset, by the parameter `RESERVED_ACCESS` (R91): refused, or a read returns
0 and a write changes nothing. -/
def reservedAccess (a : Access) (s : State) : Result :=
  match s.cfg.reservedAccess with
  | .refuse => .refused .reserved
  | .readZeroIgnoreWrite =>
    match a with
    | .read => .next (s.respond 0)
    | .write _ => .next s

/-- RESERVED.SRC0 (R91). -/
def execReservedSrc0 (a : Access) (s : State) : Result := reservedAccess a s

/-- RESERVED.GAP1 (R91). -/
def execReservedGap1 (_cc _w : Nat) (a : Access) (s : State) : Result := reservedAccess a s

/-- RESERVED.GAP2 (R91). -/
def execReservedGap2 (_cc _w : Nat) (a : Access) (s : State) : Result := reservedAccess a s

/-- RESERVED.CTX (R91). -/
def execReservedCtx (_c _r : Nat) (a : Access) (s : State) : Result := reservedAccess a s

end Sys2Proof.Machine
end

