-- ==== Sys2Proof/Machine/Threshold.lean ====
section
/-! DEFINITION. The priority thresholds (R130 to R134). -/

namespace Sys2Proof.Machine

/-- THRESHOLD.RD c (R131): the threshold, or 0 for a context the implementation lacks (R92). -/
def execThresholdRd (c : Nat) (s : State) : Result := .next (s.respond (s.thrAt c))

/-- THRESHOLD.WR c, v (R132): the legalised value is stored; ignored for a context the implementation
lacks (R92). -/
def execThresholdWr (c : Nat) (v : Word) (s : State) : Result :=
  .next (if s.hasContext c then s.setThr c (s.legalThr c v) else s)

end Sys2Proof.Machine
end

