-- ==== Sys2Proof/Machine/Dispatch.lean ====
section
/-! DEFINITION. One arm for each operation. -/

namespace Sys2Proof.Machine

/-- What each operation does, by one direct call of its meaning. -/
def exec (i : Instr) (s : State) : Host.Outcome State Fault Refusal :=
  match i with
  | .priorityRd n => Sys2Proof.Machine.execPriorityRd n s
  | .priorityWr n v => Sys2Proof.Machine.execPriorityWr n v s
  | .pendingRd w => Sys2Proof.Machine.execPendingRd w s
  | .pendingWr w v => Sys2Proof.Machine.execPendingWr w v s
  | .enableRd c w => Sys2Proof.Machine.execEnableRd c w s
  | .enableWr c w v => Sys2Proof.Machine.execEnableWr c w v s
  | .thresholdRd c => Sys2Proof.Machine.execThresholdRd c s
  | .thresholdWr c v => Sys2Proof.Machine.execThresholdWr c v s
  | .claim c => Sys2Proof.Machine.execClaim c s
  | .complete c v => Sys2Proof.Machine.execComplete c v s
  | .reservedSrc0 a => Sys2Proof.Machine.execReservedSrc0 a s
  | .reservedGap1 cc w a => Sys2Proof.Machine.execReservedGap1 cc w a s
  | .reservedGap2 cc w a => Sys2Proof.Machine.execReservedGap2 cc w a s
  | .reservedCtx c r a => Sys2Proof.Machine.execReservedCtx c r a s

end Sys2Proof.Machine
end

