-- ==== Sys2Proof/Machine/Flags.lean ====
section
/-! DEFINITION. The device's derived bits and comparisons (R30, R105): external interrupt pending, and
the change of it that every step queues for its target. -/

namespace Sys2Proof.Machine

/-- Source `n` is active for context `c`: pending, enabled and above the threshold, unsigned and strict
(R105, R180). -/
def State.activeFor (s : State) (c n : Nat) : Bool :=
  s.ipAt n && (s.ieAt c n && decide (s.thrAt c < s.prioAt n))

/-- `p` holds of some number in 1..k. -/
def anySource (p : Nat → Bool) : Nat → Bool
  | 0 => false
  | k + 1 => p (k + 1) || anySource p k

/-- `eip(c)` (R180). -/
def State.eip (s : State) (c : Nat) : Bool := anySource (s.activeFor c) s.cfg.nsrc

/-- The queues after the changes of `eip` between `s` and `t` in the contexts below `k` are appended
(R182). -/
def queueChanges (s t : State) : Nat → Table (List Bool)
  | 0 => t.nq
  | k + 1 =>
    if t.eip k = s.eip k then queueChanges s t k
    else (queueChanges s t k).set k (t.nq.get k ++ [t.eip k])

/-- `t`, the state a step has made of `s`, with every change of `eip` queued: what R182 adds after every
step of the PLIC. -/
def noteEip (s t : State) : State := { t with nq := queueChanges s t t.cfg.nctx }

end Sys2Proof.Machine
end

