-- ==== Sys2Proof/Machine/Gateway.lean ====
section
/-! DEFINITION. The gateways and the environment's steps at them (R160 to R170). -/

namespace Sys2Proof.Machine

/-- GW.LEVEL N can be taken: a level gateway, idle, whose signal is asserted (R163). -/
def State.levelEnabled (s : State) (n : Nat) : Bool :=
  s.hasSource n && (decide (s.kindOf n = .level) && (!s.busyAt n && s.sigAt n))

/-- GW.LEVEL N (R163). A step that is not enabled cannot be taken; scheduled all the same, it does
nothing (DESIGN CHOICE, log entry 6). -/
def gwLevel (n : Nat) (s : State) : State := if s.levelEnabled n then s.forward n else s

/-- GW.COUNTED N can be taken: a counting gateway, idle, with edges waiting (R167). -/
def State.countedEnabled (s : State) (n : Nat) : Bool :=
  s.hasSource n && (decide (s.kindOf n = .edgeCount) && (!s.busyAt n && decide (0 < s.countAt n)))

/-- GW.COUNTED N (R167): the request is forwarded and the counter decremented. -/
def gwCounted (n : Nat) (s : State) : State :=
  if s.countedEnabled n then (s.forward n).setCount n (s.countAt n - 1) else s

/-- GW.EDGE N (R165): an idle gateway forwards the edge; a busy one counts it up to `GW_COUNT_MAX[N]`
(R166) or loses it. A level gateway takes no notice (R169). An edge that names no implemented source
does nothing: the spec has no such event (DESIGN CHOICE, log entry 32). -/
def gwEdge (n : Nat) (s : State) : State :=
  if s.hasSource n then
    match s.kindOf n with
    | .level => s
    | .edgeIgnore => if s.busyAt n then s else s.forward n
    | .edgeCount =>
      if s.busyAt n then s.setCount n (min (s.countAt n + 1) (s.cfg.gwCountMax.get n))
      else s.forward n
  else s

/-- SIG N, l (R169): the level changes and nothing else, so no request is taken back (R164). A level
that names no implemented source does nothing: the spec has no such input (DESIGN CHOICE, log entry 32). -/
def envSig (n : Nat) (l : Bool) (s : State) : State := if s.hasSource n then s.setSig n l else s

/-- The environment's steps (R169); a decoded MSI that names N is the event `edge(N)` (R168).
One that names N = 0 or N > NSRC does nothing (DESIGN CHOICE, log entry 32). -/
def runEnv (e : EnvStep) (s : State) : State :=
  match e with
  | .sig n l => envSig n l s
  | .edge n => gwEdge n s
  | .msi n => gwEdge n s

end Sys2Proof.Machine
end

