-- ==== Sys2Proof/Machine/Notify.lean ====
section
/-! DEFINITION. The delivery of notifications (R182 to R185), the PLIC's own steps (R16) and which of
them the machine takes when nothing is scheduled (R170, R183). -/

namespace Sys2Proof.Machine

/-- NOTIFY c with `k` can be taken: `1 <= k <= length(nq[c])` (R182). -/
def State.notifyEnabled (s : State) (c k : Nat) : Bool :=
  decide (1 ≤ k) && decide (k ≤ (s.nqAt c).length)

/-- The first `k` queued changes of context `c` are removed, and the last of them is delivered (R182). -/
def State.deliver (s : State) (c k : Nat) : State :=
  (s.setNotif c (((s.nqAt c).take k).getLastD (s.notifAt c))).setNq c ((s.nqAt c).drop k)

/-- NOTIFY c (R182); nothing happens where it is not enabled (DESIGN CHOICE, log entry 6). -/
def notify (c k : Nat) (s : State) : State := if s.notifyEnabled c k then s.deliver c k else s

/-- The steps the PLIC takes of itself (R16, R94). -/
def runAgent (a : AgentStep) (s : State) : State :=
  match a with
  | .gwLevel n => gwLevel n s
  | .gwCounted n => gwCounted n s
  | .notify c k => notify c k s

/-- A step of the PLIC's own is enabled (R163, R167, R182). -/
def State.agentEnabled (s : State) (a : AgentStep) : Bool :=
  match a with
  | .gwLevel n => s.levelEnabled n
  | .gwCounted n => s.countedEnabled n
  | .notify c k => s.notifyEnabled c k

/-- The enabled gateway steps of the sources 1..k. -/
def gatewaySteps (s : State) : Nat → List AgentStep
  | 0 => []
  | k + 1 =>
    gatewaySteps s k ++ (if s.levelEnabled (k + 1) then [.gwLevel (k + 1)] else []) ++
      (if s.countedEnabled (k + 1) then [.gwCounted (k + 1)] else [])

/-- NOTIFY c with each `k` in 1..m. -/
def notifySteps (c : Nat) : Nat → List AgentStep
  | 0 => []
  | m + 1 => notifySteps c m ++ [.notify c (m + 1)]

/-- The enabled notification steps of the contexts below `k`, with every choice of their number. -/
def deliverySteps (s : State) : Nat → List AgentStep
  | 0 => []
  | k + 1 => deliverySteps s k ++ notifySteps k (s.nqAt k).length

/-- Every step of the PLIC's own that is enabled (R16). -/
def State.enabledSteps (s : State) : List AgentStep :=
  gatewaySteps s s.cfg.nsrc ++ deliverySteps s s.cfg.nctx

/-- The enabled step the machine takes when no step is scheduled, which one being a free choice; none
where none is enabled (R16; log entry 5). -/
def State.idleChoice (s : State) : Option AgentStep :=
  match s.enabledSteps with
  | [] => none
  | a :: l => some ((a :: l).getD (Config.freeChoice s.seq % (l.length + 1)) a)

/-- What the machine does when no step is scheduled: it takes one of its own enabled steps, and rests
when none is enabled (R16, R170, R183; log entry 5). -/
def idleStep (s : State) : State :=
  match s.idleChoice with
  | none => s
  | some a => noteEip s (runAgent a s.nextChoice)

/-- Some context of hart `h` in mode `m` among those below `k` has its notification set. R185 gives the
bit of a hart and mode that one context stands for; that the contexts are or-ed where several do, and
that the bit is 0 where none does, is the model's choice (DESIGN CHOICE, log entries 22 and 33). -/
def anyNotified (s : State) (h : Nat) (m : PrivMode) : Nat → Bool
  | 0 => false
  | k + 1 =>
    (decide (s.cfg.ctxMap.get k = .hart h m) && s.notifAt k) || anyNotified s h m k

/-- The `meip` bit of hart `h`'s `mip` register (R185, R193); 0 where no context stands for the
hart in machine mode (DESIGN CHOICE, log entry 33). -/
def State.meip (s : State) (h : Nat) : Bool := anyNotified s h .machine s.cfg.nctx

/-- The `seip` bit of hart `h`'s `sip` register (R185, R193); 0 where no context stands for the
hart in supervisor mode (DESIGN CHOICE, log entry 33). -/
def State.seip (s : State) (h : Nat) : Bool := anyNotified s h .supervisor s.cfg.nctx

end Sys2Proof.Machine
end

