-- ==== Sys2Proof/WellFormed.lean ====
section
/-! DEFINITION. The operand ranges of each operation: what an access word can name (R82, R90). -/

namespace Sys2Proof

/-- A source number a priority offset can name: 1..1023 (R85, R94). -/
def sourceOk (n : Nat) : Bool := decide (1 ≤ n) && decide (n ≤ 1023)

/-- A word index of a bit array: 0..31 (R86, R94). -/
def wordOk (w : Nat) : Bool := decide (w ≤ 31)

/-- A context number: 0..15871 (R87, R88, R94). -/
def contextOk (c : Nat) : Bool := decide (c ≤ 15871)

/-- The block numbers `off[25:7]` of RESERVED.GAP1 (R90). -/
def gap1Ok (cc : Nat) : Bool := decide (0x21 ≤ cc) && decide (cc ≤ 0x3F)

/-- The block numbers `off[25:7]` of RESERVED.GAP2 (R90). -/
def gap2Ok (cc : Nat) : Bool := decide (0x3E40 ≤ cc) && decide (cc ≤ 0x3FFF)

/-- The reserved registers of a context block: `off[11:2] >= 2` (R88, R90). -/
def blockRegOk (r : Nat) : Bool := decide (2 ≤ r) && decide (r ≤ 1023)

/-- The operands lie in the ranges of R90 and R94. -/
def Instr.wellFormed : Instr → Bool
  | .priorityRd n => sourceOk n
  | .priorityWr n _ => sourceOk n
  | .pendingRd w => wordOk w
  | .pendingWr w _ => wordOk w
  | .enableRd c w => contextOk c && wordOk w
  | .enableWr c w _ => contextOk c && wordOk w
  | .thresholdRd c => contextOk c
  | .thresholdWr c _ => contextOk c
  | .claim c => contextOk c
  | .complete c _ => contextOk c
  | .reservedSrc0 _ => true
  | .reservedGap1 cc w _ => gap1Ok cc && wordOk w
  | .reservedGap2 cc w _ => gap2Ok cc && wordOk w
  | .reservedCtx c r _ => contextOk c && blockRegOk r

end Sys2Proof
end

