-- ==== Sys2Proof/Decode.lean ====
section
/-! DEFINITION. The decoder of R82, the encoder (the converses stated in R85 to R88), and the opcode
table of R90 as mask, match and ranges. -/

namespace Sys2Proof

/-- Why a pair of words is no operation of the PLIC. -/
inductive DecodeError where
  /-- A bit above bit 26 is set: an access word has 27 bits (R80). -/
  | notAccessWord
  /-- `off[1:0]` is not 0 (R56, R80). -/
  | misaligned
deriving DecidableEq, Repr

/-- `A[26]`, the direction: set for a write (R80). -/
def dirBit (a : AccessWord) : Bool := a.getLsbD 26

/-- `A[25:0]`, the byte offset from `PLIC_BASE` (R80). -/
def offField (a : AccessWord) : Nat := (a.extractLsb' 0 26).toNat

/-- `off[25:7]`, the number of the 0x80-byte block (R81, R82). -/
def ccField (a : AccessWord) : Nat := (a.extractLsb' 7 19).toNat

/-- `off[25:12]`, the number of the 4096-byte block (R81, R82). -/
def ppField (a : AccessWord) : Nat := (a.extractLsb' 12 14).toNat

/-- `off[11:2]`, the register inside a 4096-byte block: N of R85, r of R88. -/
def regField (a : AccessWord) : Nat := (a.extractLsb' 2 10).toNat

/-- `off[6:2]`, the word inside a 0x80-byte block: w of R86 and R87. -/
def wordField (a : AccessWord) : Nat := (a.extractLsb' 2 5).toNat

/-- `off[1:0]`, zero in every operation (R80). -/
def lowField (a : AccessWord) : Nat := (a.extractLsb' 0 2).toNat

/-- The access the direction bit and the data make: data is absent for a read (R80). -/
def accessOf (a : AccessWord) (v : Word) : Access := if dirBit a then .write v else .read

/-- The read or the write of one register, by the direction. -/
def pick (a : AccessWord) (rd wr : Instr) : Instr := if dirBit a then wr else rd

/-- R82, line by line: the operation that an aligned access word and the data stand for. -/
def decodeAligned (a : AccessWord) (v : Word) : Instr :=
  let cc := ccField a
  if cc ≤ 0x1F then
    if regField a = 0 then .reservedSrc0 (accessOf a v)
    else pick a (.priorityRd (regField a)) (.priorityWr (regField a) v)
  else if cc = 0x20 then
    pick a (.pendingRd (wordField a)) (.pendingWr (wordField a) v)
  else if cc ≤ 0x3F then .reservedGap1 cc (wordField a) (accessOf a v)
  else if cc ≤ 0x3E3F then
    pick a (.enableRd (cc - 0x40) (wordField a)) (.enableWr (cc - 0x40) (wordField a) v)
  else if cc ≤ 0x3FFF then .reservedGap2 cc (wordField a) (accessOf a v)
  else if regField a = 0 then
    pick a (.thresholdRd (ppField a - 0x200)) (.thresholdWr (ppField a - 0x200) v)
  else if regField a = 1 then
    pick a (.claim (ppField a - 0x200)) (.complete (ppField a - 0x200) v)
  else .reservedCtx (ppField a - 0x200) (regField a) (accessOf a v)

/-- The decoder of the 27-bit access words: only an aligned offset has a meaning (R56, R80). -/
def decode (a : AccessWord) (v : Word) : Option Instr :=
  if lowField a = 0 then some (decodeAligned a v) else none

/-- The decoder on any two words, rejecting by name: the access word in a 32-bit container, then the
data (log entry 20). -/
def decodeWords (a v : Word) : Except DecodeError Instr :=
  if a.toNat < 2 ^ 27 then
    match decode (a.setWidth 27) v with
    | some i => .ok i
    | none => .error .misaligned
  else .error .notAccessWord

/-- The first word of a table word: bits 31..0. -/
def tableAccess (nbits w : Nat) : Word := BitVec.ofNat 32 (w % 2 ^ nbits)

/-- The second word of a table word, the data of a write: bits 63..32. -/
def tableData (nbits w : Nat) : Word := BitVec.ofNat 32 (w % 2 ^ nbits / 2 ^ 32)

/-- The host's question about a row of the opcode table: what the decoder reads from the bits `w`. -/
def decodeTableWord (nbits w : Nat) : Option Instr :=
  match decodeWords (tableAccess nbits w) (tableData nbits w) with
  | .ok i => some i
  | .error _ => none

/-- The byte offset of an operation: the converses in R85, R86, R87 and R88. -/
def offsetOf : Instr → Nat
  | .priorityRd n => 4 * n
  | .priorityWr n _ => 4 * n
  | .pendingRd w => 0x1000 + 4 * w
  | .pendingWr w _ => 0x1000 + 4 * w
  | .enableRd c w => 0x2000 + 0x80 * c + 4 * w
  | .enableWr c w _ => 0x2000 + 0x80 * c + 4 * w
  | .thresholdRd c => 0x200000 + 0x1000 * c
  | .thresholdWr c _ => 0x200000 + 0x1000 * c
  | .claim c => 0x200004 + 0x1000 * c
  | .complete c _ => 0x200004 + 0x1000 * c
  | .reservedSrc0 _ => 0
  | .reservedGap1 cc w _ => 0x80 * cc + 4 * w
  | .reservedGap2 cc w _ => 0x80 * cc + 4 * w
  | .reservedCtx c r _ => 0x200000 + 0x1000 * c + 4 * r

/-- The direction and the data of an operation (R90). -/
def accessFor : Instr → Access
  | .priorityRd _ => .read
  | .priorityWr _ v => .write v
  | .pendingRd _ => .read
  | .pendingWr _ v => .write v
  | .enableRd _ _ => .read
  | .enableWr _ _ v => .write v
  | .thresholdRd _ => .read
  | .thresholdWr _ v => .write v
  | .claim _ => .read
  | .complete _ v => .write v
  | .reservedSrc0 a => a
  | .reservedGap1 _ _ a => a
  | .reservedGap2 _ _ a => a
  | .reservedCtx _ _ a => a

/-- `A = dir ++ off[25:0]` (R80). -/
def accessWord (a : Access) (off : Nat) : AccessWord :=
  match a with
  | .read => 0#1 ++ BitVec.ofNat 26 off
  | .write _ => 1#1 ++ BitVec.ofNat 26 off

/-- The data of an access; a read drives none, and the encoder writes zeros for it. -/
def accessData : Access → Word
  | .read => 0
  | .write v => v

/-- The words of an operation: its access word and its data (R80, R89). -/
def encode (i : Instr) : AccessWord × Word :=
  (accessWord (accessFor i) (offsetOf i), accessData (accessFor i))

/-- One row of the operation table of R90: the bits under `mask` must equal `bits`, and the fields lie
in the ranges the row's offset condition gives. -/
structure Row where
  mnemonic : String
  mask : AccessWord
  bits : AccessWord
  ccLo : Nat
  ccHi : Nat
  ppLo : Nat
  regLo : Nat
deriving DecidableEq, Repr

/-- The row selects the access word (R80, R90): mask and match, then the offset condition. -/
def rowMatches (r : Row) (a : AccessWord) : Bool :=
  decide (a &&& r.mask = r.bits) && decide (r.ccLo ≤ ccField a) && decide (ccField a ≤ r.ccHi) &&
    decide (r.ppLo ≤ ppField a) && decide (r.regLo ≤ regField a)

/-- The operation table of R90, in its order. -/
def opcodeTable : List Row :=
  [⟨"PRIORITY.RD", 0x7FFF003, 0x0000000, 0, 0x7FFFF, 0, 1⟩,
   ⟨"PRIORITY.WR", 0x7FFF003, 0x4000000, 0, 0x7FFFF, 0, 1⟩,
   ⟨"PENDING.RD", 0x7FFFF83, 0x0001000, 0, 0x7FFFF, 0, 0⟩,
   ⟨"PENDING.WR", 0x7FFFF83, 0x4001000, 0, 0x7FFFF, 0, 0⟩,
   ⟨"ENABLE.RD", 0x4000003, 0x0000000, 0x40, 0x3E3F, 0, 0⟩,
   ⟨"ENABLE.WR", 0x4000003, 0x4000000, 0x40, 0x3E3F, 0, 0⟩,
   ⟨"THRESHOLD.RD", 0x4000FFF, 0x0000000, 0, 0x7FFFF, 0x200, 0⟩,
   ⟨"THRESHOLD.WR", 0x4000FFF, 0x4000000, 0, 0x7FFFF, 0x200, 0⟩,
   ⟨"CLAIM", 0x4000FFF, 0x0000004, 0, 0x7FFFF, 0x200, 0⟩,
   ⟨"COMPLETE", 0x4000FFF, 0x4000004, 0, 0x7FFFF, 0x200, 0⟩,
   ⟨"RESERVED.SRC0", 0x3FFFFFF, 0x0000000, 0, 0x7FFFF, 0, 0⟩,
   ⟨"RESERVED.GAP1", 0x0000003, 0x0000000, 0x21, 0x3F, 0, 0⟩,
   ⟨"RESERVED.GAP2", 0x0000003, 0x0000000, 0x3E40, 0x3FFF, 0, 0⟩,
   ⟨"RESERVED.CTX", 0x0000003, 0x0000000, 0, 0x7FFFF, 0x200, 2⟩]

/-- The mnemonic of an operation's row (R90). -/
def Instr.mnemonic : Instr → String
  | .priorityRd _ => "PRIORITY.RD"
  | .priorityWr _ _ => "PRIORITY.WR"
  | .pendingRd _ => "PENDING.RD"
  | .pendingWr _ _ => "PENDING.WR"
  | .enableRd _ _ => "ENABLE.RD"
  | .enableWr _ _ _ => "ENABLE.WR"
  | .thresholdRd _ => "THRESHOLD.RD"
  | .thresholdWr _ _ => "THRESHOLD.WR"
  | .claim _ => "CLAIM"
  | .complete _ _ => "COMPLETE"
  | .reservedSrc0 _ => "RESERVED.SRC0"
  | .reservedGap1 _ _ _ => "RESERVED.GAP1"
  | .reservedGap2 _ _ _ => "RESERVED.GAP2"
  | .reservedCtx _ _ _ => "RESERVED.CTX"

end Sys2Proof
end

