-- ==== Sys2Proof/Machine/Region.lean ====
section
/-! DEFINITION. The register region as an address space (R28, R50, R51): what its words hold, its bytes,
and how an access that arrives on the bus is fetched as an operation. -/

namespace Sys2Proof.Machine

/-- What the register an operation accesses holds: the value an access without effect would see. The
claim/complete register holds nothing of its own (R27), nor does a reserved offset. -/
def State.held (s : State) (i : Instr) : Word :=
  match i with
  | .priorityRd n => s.prioAt n
  | .priorityWr n _ => s.prioAt n
  | .pendingRd w => wordOfBits fun b => s.ipAt (sourceOf w b)
  | .pendingWr w _ => wordOfBits fun b => s.ipAt (sourceOf w b)
  | .enableRd c w => wordOfBits fun b => s.ieAt c (sourceOf w b)
  | .enableWr c w _ => wordOfBits fun b => s.ieAt c (sourceOf w b)
  | .thresholdRd c => s.thrAt c
  | .thresholdWr c _ => s.thrAt c
  | .claim _ => 0
  | .complete _ _ => 0
  | .reservedSrc0 _ => 0
  | .reservedGap1 _ _ _ => 0
  | .reservedGap2 _ _ _ => 0
  | .reservedCtx _ _ _ => 0

/-- The length of the region, 64 MiB (R50). -/
def regionBytes : Nat := 0x4000000

/-- The word the region holds at the aligned offset at or below `off` (R28). -/
def State.regWord (s : State) (off : Nat) : Word :=
  s.held (decodeAligned (accessWord .read (off - off % 4)) 0)

/-- The byte the region holds at `off`, in the order R57 gives: byte `off + i` has bits `8i+7 : 8i`. -/
def State.regByte (s : State) (off : Nat) : BitVec 8 :=
  (s.regWord off).extractLsb' (8 * (off % 4)) 8

/-- The offset of an address, where the address lies in the region (R50, R54). -/
def offsetIn (cfg : Config) (addr : Nat) : Option Nat :=
  if cfg.base ≤ addr ∧ addr < cfg.base + regionBytes then some (addr - cfg.base) else none

/-- The direction and the data of a load or a store; the other kinds of access have no meaning (R64,
R65). -/
def busAccess (b : BusAccess) : Except Refusal Access :=
  match b.kind with
  | .load => .ok .read
  | .store => .ok (.write b.data)
  | .fetch => .error .instructionFetch
  | .amo => .error .atomicOperation
  | .loadReserved => .error .atomicOperation
  | .storeConditional => .error .atomicOperation

/-- The operation that an access of 4 bytes at an offset of the region stands for (R80, R82). -/
def fetchAt (a : Access) (off : Nat) : Host.Outcome Instr Fault Refusal :=
  match decode (accessWord a off) (accessData a) with
  | some i => .next i
  | none => .refused .misaligned

/-- The operation an access that arrives on the bus stands for. Outside the region it is not to the PLIC
(R50); of another kind, width or alignment it has no meaning (R56, R64, R65). -/
def fetch (cfg : Config) (b : BusAccess) : Host.Outcome Instr Fault Refusal :=
  match offsetIn cfg b.addr with
  | none => .fault .outsideRegion
  | some off =>
    match busAccess b with
    | .error r => .refused r
    | .ok a => if b.size = 4 then fetchAt a off else .refused .width

/-- The access of 4 bytes that two words ask for: the access word in the first, of which bits 31..27
are beyond the region, and the data in the second (log entry 20). -/
def accessOfWords (cfg : Config) (a v : Word) : BusAccess where
  kind := if a.getLsbD 26 then .store else .load
  addr := cfg.base + (a.toNat % 2 ^ 26 + a.toNat / 2 ^ 27 * 2 ^ 26)
  size := 4
  data := v

end Sys2Proof.Machine
end

