-- ==== Sys2Proof/Machine/Bus.lean ====
section
/-! DEFINITION. One scheduled step: a bus operation, a step of the PLIC's own or a step of the
environment, and after it the changes of `eip` queued (R16, R60, R182). -/

namespace Sys2Proof.Machine

/-- The result of a meaning, with the changes of `eip` since `s` queued (R182). -/
def noteResult (s : State) : Result → Result
  | .next t => .next (noteEip s t)
  | .fault f => .fault f
  | .refused r => .refused r

/-- An access that arrives on the bus: it is fetched and run as one atomic step (R55, R60). -/
def runBus (b : BusAccess) (s : State) : Result :=
  match fetch s.cfg b with
  | .next i => noteResult s (exec i s)
  | .fault f => .fault f
  | .refused r => .refused r

/-- One step of the total order (R16, R60). -/
def runEvent (e : Event) (s : State) : Result :=
  match e with
  | .bus b => runBus b s
  | .agent a => .next (noteEip s (runAgent a s))
  | .env x => .next (noteEip s (runEnv x s))

end Sys2Proof.Machine
end

