-- ==== Sys2Proof/Machine/Step.lean ====
section
/-! DEFINITION. The step of the machine, and where its next instruction is fetched. -/

namespace Sys2Proof.Machine

/-- One step: the first of the scheduled steps, or one of the PLIC's own where none is scheduled (R16,
R60; log entries 4 and 5). -/
def step (s : State) : Host.Outcome State Fault Refusal :=
  match s.todo with
  | [] => .next (idleStep s)
  | e :: rest => runEvent e (s.setTodo rest)

/-- The state in which the access that the bits `w` stand for is the next to arrive (log entry 4). -/
def State.withFetchWord (s : State) (nbits w : Nat) : State :=
  s.setTodo (.bus (accessOfWords s.cfg (tableAccess nbits w) (tableData nbits w)) :: s.todo)

end Sys2Proof.Machine
end

