-- ==== Sys2Proof/Machine/Run.lean ====
section
/-! DEFINITION. The runs of the PLIC: steps in one total order, whatever keeps arriving from outside, with
the weak fairness of R170 and R183 (R16, R60, R240). -/

namespace Sys2Proof.Machine

/-- The step of the total order that the machine takes next: the first scheduled one, or where none is
scheduled the one it chooses of its own; none at rest (R16, R60). -/
def State.nextEvent (s : State) : Option Event :=
  match s.todo with
  | [] => s.idleChoice.map .agent
  | e :: _ => some e

/-- The step `a` of the PLIC's own is taken next: it is its turn and it is enabled (R16). -/
def State.takes (s : State) (a : AgentStep) : Prop :=
  s.nextEvent = some (.agent a) ∧ s.agentEnabled a = true

/-- `σ` is a run of the PLIC, `σ i` being the state right before the step numbered `i`. Between two steps
the outside world changes what is scheduled in any way: accesses, levels, edges and messages arrive, for
ever if it likes (R16, R60, R169). Whatever arrives, the PLIC's own steps are weakly fair (R170, R183). -/
structure FairRun (σ : Nat → State) : Prop where
  /-- R16, R60: each state is the one before it after one step, but for what is scheduled. -/
  steps : ∀ i, ∃ t l, step (σ i) = .next t ∧ σ (i + 1) = t.setTodo l
  /-- R170: a GW.LEVEL N that stays enabled is eventually taken. -/
  levelFair : ∀ n i, (∀ j, i ≤ j → (σ j).levelEnabled n = true) →
    ∃ j, i ≤ j ∧ (σ j).takes (.gwLevel n)
  /-- R170: a GW.COUNTED N that stays enabled is eventually taken. -/
  countedFair : ∀ n i, (∀ j, i ≤ j → (σ j).countedEnabled n = true) →
    ∃ j, i ≤ j ∧ (σ j).takes (.gwCounted n)
  /-- R183: a NOTIFY c that stays enabled is eventually taken, with some number of changes. -/
  notifyFair : ∀ c i, (∀ j, i ≤ j → (σ j).nqAt c ≠ []) →
    ∃ j k, i ≤ j ∧ (σ j).takes (.notify c k)

end Sys2Proof.Machine
end

