-- ==== Sys2Proof/Safety.lean ====
section
/-! DEFINITION. What counts as a proper configuration, a proper state and a proper access, in the terms
the statements use: the constraints of R7 to R12, the invariants of R36, and rest. -/

namespace Sys2Proof

/-- Both levels of a table of enable rows are in canonical form. -/
def rowsWf (t : Table (Table Bool)) : Bool :=
  t.wf && (t.dflt.wf && t.exc.all fun e => e.2.wf)

/-- The constraints the spec puts on the implementation parameters, and their tables in canonical form. -/
structure Config.Wf (k : Config) : Prop where
  /-- R7. -/
  nsrc_range : 1 ≤ k.nsrc ∧ k.nsrc ≤ 1023
  /-- R8. -/
  nctx_range : 1 ≤ k.nctx ∧ k.nctx ≤ 15872
  /-- R9. -/
  base_aligned : k.base % 4 = 0
  /-- R10. -/
  prio_disjoint : ∀ n, 1 ≤ n → n ≤ k.nsrc → k.prioFixed.get n &&& k.prioRwMask.get n = 0
  /-- R134. -/
  thr_disjoint : ∀ c, c < k.nctx → k.thrFixed.get c &&& k.thrRwMask.get c = 0
  /-- R12: never both. -/
  hard_disjoint : ∀ c n, c < k.nctx → 1 ≤ n → n ≤ k.nsrc →
    ((k.ieHard0.get c).get n && (k.ieHard1.get c).get n) = false
  /-- R166. -/
  count_max_pos : ∀ n, 1 ≤ n → n ≤ k.nsrc → k.gwKind.get n = .edgeCount → 1 ≤ k.gwCountMax.get n
  prioFixed_wf : k.prioFixed.wf = true
  thrFixed_wf : k.thrFixed.wf = true
  ieHard1_wf : rowsWf k.ieHard1 = true

namespace Machine

/-- Every bank of the state is in canonical form, so that equal banks are equal data. -/
structure State.Canonical (s : State) : Prop where
  prio : s.prio.wf = true
  ip : s.ip.wf = true
  ie : rowsWf s.ie = true
  thr : s.thr.wf = true
  gwBusy : s.gwBusy.wf = true
  gwCount : s.gwCount.wf = true
  notif : s.notif.wf = true
  nq : s.nq.wf = true
  sig : s.sig.wf = true

/-- The bits of `l` are changes, oldest first, of a value that was `b` before them: each differs from the
one before it (R33). -/
def changesFrom (b : Bool) : List Bool → Bool
  | [] => true
  | x :: l => decide (x ≠ b) && changesFrom x l

/-- The invariants of R36, with what R33 and R182 say of the queue: it holds changes of `eip(c)`, and the
last of them (the delivered value where it is empty) is the present `eip(c)`. -/
structure State.Inv (s : State) : Prop where
  cfg : s.cfg.Wf
  /-- R22. -/
  prio_legal : ∀ n, s.hasSource n = true →
    s.prioAt n &&& ~~~(s.cfg.prioRwMask.get n) = s.cfg.prioFixed.get n
  /-- R26. -/
  thr_legal : ∀ c, s.hasContext c = true →
    s.thrAt c &&& ~~~(s.cfg.thrRwMask.get c) = s.cfg.thrFixed.get c
  /-- R25. -/
  ie_hard0 : ∀ c n, s.hasContext c = true → s.hasSource n = true → s.hard0 c n = true →
    s.ieAt c n = false
  /-- R25. -/
  ie_hard1 : ∀ c n, s.hasContext c = true → s.hasSource n = true → s.hard1 c n = true →
    s.ieAt c n = true
  /-- R32. -/
  count_max : ∀ n, s.counts n = true → s.countAt n ≤ s.cfg.gwCountMax.get n
  /-- R33. -/
  nq_changes : ∀ c, s.hasContext c = true → changesFrom (s.notifAt c) (s.nqAt c) = true
  /-- R182. -/
  nq_last : ∀ c, s.hasContext c = true → (s.nqAt c).getLastD (s.notifAt c) = s.eip c

/-- A pending request has a busy gateway: R36's property that is no invariant of every step. -/
def State.PendingBusy (s : State) : Prop := ∀ n, s.ipAt n = true → s.busyAt n = true

/-- The access is an aligned 32-bit load or store that lies in the register region (R55, R56). -/
def wordAccess (cfg : Config) (b : BusAccess) : Bool :=
  decide (b.kind = .load ∨ b.kind = .store) && (decide (b.size = 4) &&
    (decide (cfg.base ≤ b.addr) && (decide (b.addr < cfg.base + regionBytes) &&
      decide ((b.addr - cfg.base) % 4 = 0))))

/-- The operation is one of the four reserved classes (R91). -/
def isReserved : Instr → Bool
  | .reservedSrc0 _ => true
  | .reservedGap1 _ _ _ => true
  | .reservedGap2 _ _ _ => true
  | .reservedCtx _ _ _ => true
  | .priorityRd _ => false
  | .priorityWr _ _ => false
  | .pendingRd _ => false
  | .pendingWr _ _ => false
  | .enableRd _ _ => false
  | .enableWr _ _ _ => false
  | .thresholdRd _ => false
  | .thresholdWr _ _ => false
  | .claim _ => false
  | .complete _ _ => false

/-- The next scheduled step is the bus operation `i`. -/
def State.nextIs (s : State) (i : Instr) : Prop :=
  ∃ b rest, s.todo = .bus b :: rest ∧ fetch s.cfg b = .next i

/-- The machine is at rest: nothing is scheduled and no step of its own is enabled. -/
def State.atRest (s : State) : Bool := s.todo.isEmpty && s.enabledSteps.isEmpty

/-- How many of the gateways 1..k are idle. -/
def idleGateways (s : State) : Nat → Nat
  | 0 => 0
  | k + 1 => (if s.busyAt (k + 1) then 0 else 1) + idleGateways s k

/-- How many changes are queued for the contexts below `k`. -/
def queuedChanges (s : State) : Nat → Nat
  | 0 => 0
  | k + 1 => (s.nqAt k).length + queuedChanges s k

/-- A bound on the steps that bring an undisturbed machine to rest: each gateway can forward once, which
queues at most one change for each context, and each change is delivered once. -/
def State.restBound (s : State) : Nat :=
  idleGateways s s.cfg.nsrc * (s.cfg.nctx + 1) + queuedChanges s s.cfg.nctx

end Machine

end Sys2Proof
end

