-- ==== Sys2Proof/Certificates/Slice0/Obligations.lean ====
section
/-! DEFINITION. The statements for the provers. Each docstring names the rules of spec/ it formalises;
where a clause is the model's own choice, it says so and names the log entry. -/

open Sys2Proof Sys2Proof.Machine

/-! ## Encoding -/

/-- R80, R82, R85 to R88: the words of a well-formed operation decode to it, whatever its operands. -/
def Obligations.DecodeEncodeAgree : Prop :=
  ∀ i : Instr, i.wellFormed = true → decode (encode i).1 (encode i).2 = some i

/-- R80, R82: an access word that decodes is the one its operation encodes to, with the data of a write;
so no bit of an access word is dropped, and every operand decoded is in range. -/
def Obligations.EncodeDecodeAgree : Prop :=
  ∀ (a : AccessWord) (v : Word) (i : Instr), decode a v = some i →
    i.wellFormed = true ∧ (encode i).1 = a ∧ (dirBit a = true → (encode i).2 = v)

/-- R90: every aligned access word satisfies exactly one row of the operation table, and the decoder of
R82 finds that row's operation. -/
def Obligations.AlignedWordSelectsOneTableRow : Prop :=
  ∀ (a : AccessWord) (v : Word), lowField a = 0 →
    (opcodeTable.filter fun r => rowMatches r a).map Row.mnemonic = [(decodeAligned a v).mnemonic] ∧
      decode a v = some (decodeAligned a v)

/-- R85: in the priority block the source number is `off[11:2] = off / 4`; N = 0 selects the reserved
word; conversely the priority of source N is at `4*N`. -/
def Obligations.SourceNumberFromPriorityOffset : Prop :=
  (∀ a : AccessWord, offField a < 0x1000 → lowField a = 0 →
    regField a = offField a / 4 ∧ regField a ≤ 1023 ∧
    (regField a = 0 → ∀ v, decode a v = some (.reservedSrc0 (accessOf a v))) ∧
    (regField a ≠ 0 → ∀ v, decode a v =
      some (if dirBit a = true then .priorityWr (offField a / 4) v
        else .priorityRd (offField a / 4)))) ∧
  (∀ n v, 1 ≤ n → n ≤ 1023 → decode (accessWord .read (4 * n)) 0 = some (.priorityRd n) ∧
    decode (accessWord (.write v) (4 * n)) v = some (.priorityWr n v))

/-- R87: context and word from an enable offset, and back; each context has 0x80 bytes. -/
def Obligations.ContextAndWordFromEnableOffset : Prop :=
  (∀ a : AccessWord, 0x2000 ≤ offField a → offField a < 0x1F2000 → lowField a = 0 →
    (offField a - 0x2000) / 0x80 = ccField a - 0x40 ∧ ccField a - 0x40 ≤ 15871 ∧
    ∀ v, decode a v =
      some (if dirBit a = true then .enableWr ((offField a - 0x2000) / 0x80) (wordField a) v
        else .enableRd ((offField a - 0x2000) / 0x80) (wordField a))) ∧
  (∀ c w v, c ≤ 15871 → w ≤ 31 →
    decode (accessWord .read (0x2000 + 0x80 * c + 4 * w)) 0 = some (.enableRd c w) ∧
    decode (accessWord (.write v) (0x2000 + 0x80 * c + 4 * w)) v = some (.enableWr c w v))

/-- R88: context and register from the offset inside the context blocks, and back. -/
def Obligations.ContextAndRegisterFromBlockOffset : Prop :=
  (∀ a : AccessWord, 0x200000 ≤ offField a → lowField a = 0 →
    (offField a - 0x200000) / 0x1000 = ppField a - 0x200 ∧ ppField a - 0x200 ≤ 15871 ∧
    (regField a = 0 → ∀ v, decode a v =
      some (if dirBit a = true then .thresholdWr ((offField a - 0x200000) / 0x1000) v
        else .thresholdRd ((offField a - 0x200000) / 0x1000))) ∧
    (regField a = 1 → ∀ v, decode a v =
      some (if dirBit a = true then .complete ((offField a - 0x200000) / 0x1000) v
        else .claim ((offField a - 0x200000) / 0x1000))) ∧
    (2 ≤ regField a → ∀ v, decode a v =
      some (.reservedCtx ((offField a - 0x200000) / 0x1000) (regField a) (accessOf a v)))) ∧
  (∀ c v, c ≤ 15871 →
    decode (accessWord .read (0x200000 + 0x1000 * c)) 0 = some (.thresholdRd c) ∧
    decode (accessWord (.write v) (0x200000 + 0x1000 * c)) v = some (.thresholdWr c v) ∧
    decode (accessWord .read (0x200004 + 0x1000 * c)) 0 = some (.claim c) ∧
    decode (accessWord (.write v) (0x200004 + 0x1000 * c)) v = some (.complete c v))

/-- Words written out bit by bit from the formats P, B, E and C of R81 decode to the operations that the
table of 95_test_vectors.md 2.1 gives for them. -/
def Obligations.WordsFromTheFormatsDecode : Prop :=
  decode 0b0_00000000000000_0000000010_00#27 0 = some (.priorityRd 2) ∧
  decode 0b1_00000000000000_1111111111_00#27 9 = some (.priorityWr 1023 9) ∧
  decode 0b0_0000000000000100000_11111_00#27 0 = some (.pendingRd 31) ∧
  decode 0b1_0000000000000100000_00000_00#27 9 = some (.pendingWr 0 9) ∧
  decode 0b0_0000000000001000001_00000_00#27 0 = some (.enableRd 1 0) ∧
  decode 0b1_0000000000001000011_11111_00#27 9 = some (.enableWr 3 31 9) ∧
  decode 0b0_11111111111111_0000000000_00#27 0 = some (.thresholdRd 15871) ∧
  decode 0b1_00001000000000_0000000000_00#27 9 = some (.thresholdWr 0 9) ∧
  decode 0b0_00001000000001_0000000001_00#27 0 = some (.claim 1) ∧
  decode 0b1_00001000000001_0000000001_00#27 9 = some (.complete 1 9) ∧
  decode 0b0_00000000000000_0000000000_00#27 0 = some (.reservedSrc0 .read) ∧
  decode 0b0_0000000000000100001_00000_00#27 0 = some (.reservedGap1 0x21 0 .read) ∧
  decode 0b1_0000011111111111111_11111_00#27 9 = some (.reservedGap2 0x3FFF 31 (.write 9)) ∧
  decode 0b0_00001000000000_0000000010_00#27 0 = some (.reservedCtx 0 2 .read)

/-! ## The step and the bus -/

/-- R54, R55, R60: an aligned 32-bit load or store that lies in the region and decodes to `i` runs `i`,
and after it the changes of EIP are queued (R182). -/
def Obligations.StepRunsDecodedOperation : Prop :=
  ∀ (s : State) (b : BusAccess) (rest : List Event) (x : Access) (i : Instr),
    s.todo = .bus b :: rest → wordAccess s.cfg b = true → busAccess b = .ok x →
    decode (accessWord x (b.addr - s.cfg.base)) b.data = some i →
    step s = noteResult (s.setTodo rest) (exec i (s.setTodo rest))

/-- The words `encode` writes for a well-formed operation, stored where the machine fetches, are run as
that operation by the very next step. The layout of the two words is the model's choice (log entry 20). -/
def Obligations.FetchWordRunsOperation : Prop :=
  ∀ (s : State) (i : Instr), i.wellFormed = true →
    step (s.withFetchWord 64 ((encode i).1.toNat + (encode i).2.toNat * 2 ^ 32)) =
      noteResult s (exec i s)

/-- R56, R64, R65: an access of another kind, width or alignment is refused under its own name. That an
address outside the region of R50 stops with a fault, and the order in which the grounds are looked at
(the address, then the kind, then the size, then the alignment), are the model's choice (DESIGN CHOICE,
log entry 8): an atomic operation or a fetch of another size than 4 bytes is refused for its kind here,
where R56 by itself would have it refused for its width. -/
def Obligations.OtherAccessesStopByName : Prop :=
  ∀ (s : State) (b : BusAccess) (rest : List Event), s.todo = .bus b :: rest →
    (¬ (s.cfg.base ≤ b.addr ∧ b.addr < s.cfg.base + 0x4000000) → step s = .fault .outsideRegion) ∧
    (s.cfg.base ≤ b.addr → b.addr < s.cfg.base + 0x4000000 →
      (b.kind = .fetch → step s = .refused .instructionFetch) ∧
      (b.kind = .amo ∨ b.kind = .loadReserved ∨ b.kind = .storeConditional →
        step s = .refused .atomicOperation) ∧
      (b.kind = .load ∨ b.kind = .store →
        (b.size ≠ 4 → step s = .refused .width) ∧
        (b.size = 4 → (b.addr - s.cfg.base) % 4 ≠ 0 → step s = .refused .misaligned)))

/-- R190, R93: no operation of the PLIC faults, whatever its operands; only a reserved offset stops, and
only where `RESERVED_ACCESS` is `refuse` (R91). -/
def Obligations.OnlyReservedOffsetsStop : Prop :=
  ∀ (i : Instr) (s : State),
    (∃ t, exec i s = .next t) ∨
      (isReserved i = true ∧ s.cfg.reservedAccess = .refuse ∧ exec i s = .refused .reserved)

/-! ## The register operations -/

/-- R102. -/
def Obligations.PriorityReadReturnsPriority : Prop :=
  (∀ n, 1 ≤ n → n ≤ 1023 → decode (accessWord .read (4 * n)) 0 = some (.priorityRd n)) ∧
  (∀ (n : Nat) (s : State),
    exec (.priorityRd n) s =
      .next { s with rdata := some (if 1 ≤ n ∧ n ≤ s.cfg.nsrc then s.prio.get n else 0) })

/-- R103, with the law of R101: the legalised value is stored in the register of the source named and
nowhere else; a source the implementation lacks ignores the write. Every byte of the region but the
four at `4*n` is unchanged. -/
def Obligations.PriorityWriteStoresLegalValue : Prop :=
  (∀ n v, 1 ≤ n → n ≤ 1023 → decode (accessWord (.write v) (4 * n)) v = some (.priorityWr n v)) ∧
  (∀ (n : Nat) (v : Word) (s : State), ∃ t, exec (.priorityWr n v) s = .next t ∧
    t = { s with prio := t.prio } ∧
    (¬ (1 ≤ n ∧ n ≤ s.cfg.nsrc) → t = s) ∧
    (∀ m, t.prioAt m = if m = n ∧ 1 ≤ n ∧ n ≤ s.cfg.nsrc then
      (v &&& s.cfg.prioRwMask.get n) ||| s.cfg.prioFixed.get n else s.prioAt m) ∧
    (∀ off, off < 0x4000000 → ¬ (4 * n ≤ off ∧ off < 4 * n + 4) → t.regByte off = s.regByte off))

/-- R111: bit `b` of the value read is the pending bit of source `32*w + b`, 0 for ID 0 and above NSRC;
nothing else changes. -/
def Obligations.PendingReadReturnsPendingBits : Prop :=
  (∀ w, w ≤ 31 → decode (accessWord .read (0x1000 + 4 * w)) 0 = some (.pendingRd w)) ∧
  (∀ (w : Nat) (s : State), ∃ v : Word, exec (.pendingRd w) s = .next { s with rdata := some v } ∧
    ∀ b, b < 32 → v.getLsbD b =
      (decide (1 ≤ 32 * w + b ∧ 32 * w + b ≤ s.cfg.nsrc) && s.ip.get (32 * w + b)))

/-- R112: a write to the pending array is accepted and changes nothing. -/
def Obligations.PendingWriteChangesNothing : Prop :=
  (∀ w v, w ≤ 31 → decode (accessWord (.write v) (0x1000 + 4 * w)) v = some (.pendingWr w v)) ∧
  (∀ (w : Nat) (v : Word) (s : State), exec (.pendingWr w v) s = .next s)

/-- R121: bit `b` of the value read is the enable bit of source `32*w + b` for context `c`, 0 for ID 0,
above NSRC and in a context the implementation lacks; nothing else changes. -/
def Obligations.EnableReadReturnsEnableBits : Prop :=
  (∀ c w, c ≤ 15871 → w ≤ 31 →
    decode (accessWord .read (0x2000 + 0x80 * c + 4 * w)) 0 = some (.enableRd c w)) ∧
  (∀ (c w : Nat) (s : State), ∃ v : Word, exec (.enableRd c w) s = .next { s with rdata := some v } ∧
    ∀ b, b < 32 → v.getLsbD b =
      (decide (c < s.cfg.nctx ∧ 1 ≤ 32 * w + b ∧ 32 * w + b ≤ s.cfg.nsrc) &&
        (s.ie.get c).get (32 * w + b)))

/-- R122: the read-write bits of one word of one context take the data's bits; every other enable bit,
every other register and every byte of the region but the word's four are unchanged. -/
def Obligations.EnableWriteReplacesWord : Prop :=
  (∀ c w v, c ≤ 15871 → w ≤ 31 →
    decode (accessWord (.write v) (0x2000 + 0x80 * c + 4 * w)) v = some (.enableWr c w v)) ∧
  (∀ (c w : Nat) (v : Word) (s : State), ∃ t, exec (.enableWr c w v) s = .next t ∧
    t = { s with ie := t.ie } ∧
    (¬ c < s.cfg.nctx → t = s) ∧
    (∀ d n, t.ieAt d n =
      if d = c ∧ c < s.cfg.nctx ∧ 1 ≤ n ∧ n ≤ s.cfg.nsrc ∧ 32 * w ≤ n ∧ n < 32 * w + 32 ∧
          s.hard0 c n = false ∧ s.hard1 c n = false then v.getLsbD (n - 32 * w)
      else s.ieAt d n) ∧
    (∀ off, off < 0x4000000 →
      ¬ (0x2000 + 0x80 * c + 4 * w ≤ off ∧ off < 0x2000 + 0x80 * c + 4 * w + 4) →
      w ≤ 31 → t.regByte off = s.regByte off))

/-- R131. -/
def Obligations.ThresholdReadReturnsThreshold : Prop :=
  (∀ c, c ≤ 15871 → decode (accessWord .read (0x200000 + 0x1000 * c)) 0 = some (.thresholdRd c)) ∧
  (∀ (c : Nat) (s : State),
    exec (.thresholdRd c) s =
      .next { s with rdata := some (if c < s.cfg.nctx then s.thr.get c else 0) })

/-- R132, with the law of R134: the legalised value is stored in the register of the context named and
nowhere else; a context the implementation lacks ignores the write. -/
def Obligations.ThresholdWriteStoresLegalValue : Prop :=
  (∀ c v, c ≤ 15871 →
    decode (accessWord (.write v) (0x200000 + 0x1000 * c)) v = some (.thresholdWr c v)) ∧
  (∀ (c : Nat) (v : Word) (s : State), ∃ t, exec (.thresholdWr c v) s = .next t ∧
    t = { s with thr := t.thr } ∧
    (¬ c < s.cfg.nctx → t = s) ∧
    (∀ d, t.thrAt d = if d = c ∧ c < s.cfg.nctx then
      (v &&& s.cfg.thrRwMask.get c) ||| s.cfg.thrFixed.get c else s.thrAt d) ∧
    (∀ off, off < 0x4000000 →
      ¬ (0x200000 + 0x1000 * c ≤ off ∧ off < 0x200000 + 0x1000 * c + 4) →
      t.regByte off = s.regByte off))

/-- R141, R142: a claim returns the source that is pending, enabled for the context, of a priority that
may be claimed, and ahead of every other such source; it clears that source's pending bit and nothing
else. With no such source, or in a context the implementation lacks, it returns 0 and changes
nothing. The last clause excludes the one byte that holds the bit of source `n` in the little-endian byte
order of R57, which the model presumes (PRESUMED, log entry 18). -/
def Obligations.ClaimReturnsBestAndClearsIt : Prop :=
  (∀ c, c ≤ 15871 → decode (accessWord .read (0x200004 + 0x1000 * c)) 0 = some (.claim c)) ∧
  (∀ (c : Nat) (s : State), ∃ t n, exec (.claim c) s = .next t ∧ t.rdata = some (BitVec.ofNat 32 n) ∧
    t = { s with ip := t.ip, rdata := t.rdata } ∧
    (n = 0 → t = { s with rdata := some 0 }) ∧
    (n = 0 ↔ ¬ ∃ m, c < s.cfg.nctx ∧ s.ipAt m = true ∧ s.ieAt c m = true ∧
      (0 < s.prioAt m ∨ s.cfg.claimSkipsPrio0 = false)) ∧
    (n ≠ 0 → 1 ≤ n ∧ n ≤ s.cfg.nsrc ∧ s.ipAt n = true ∧ s.ieAt c n = true ∧
      (0 < s.prioAt n ∨ s.cfg.claimSkipsPrio0 = false) ∧
      ∀ m, m ≠ n → s.ipAt m = true → s.ieAt c m = true →
        (0 < s.prioAt m ∨ s.cfg.claimSkipsPrio0 = false) →
        s.prioAt m < s.prioAt n ∨ (s.prioAt n = s.prioAt m ∧ n < m)) ∧
    (∀ m, t.ipAt m = if m = n then false else s.ipAt m) ∧
    (∀ off, off < 0x4000000 → off ≠ 0x1000 + n / 8 → t.regByte off = s.regByte off))

/-- R151, R152: a completion frees the gateway of the source named where that source is enabled for the
context at this moment, all 32 bits compared; otherwise it is silently ignored. Nothing else changes,
no byte of the region among it. -/
def Obligations.CompleteFreesEnabledGateway : Prop :=
  (∀ c v, c ≤ 15871 →
    decode (accessWord (.write v) (0x200004 + 0x1000 * c)) v = some (.complete c v)) ∧
  (∀ (c : Nat) (v : Word) (s : State), ∃ t, exec (.complete c v) s = .next t ∧
    t = { s with gwBusy := t.gwBusy } ∧
    (¬ (c < s.cfg.nctx ∧ 1 ≤ v.toNat ∧ v.toNat ≤ s.cfg.nsrc ∧
      (s.ie.get c).get v.toNat = true) → t = s) ∧
    (∀ m, t.busyAt m =
      if m = v.toNat ∧ c < s.cfg.nctx ∧ 1 ≤ m ∧ m ≤ s.cfg.nsrc ∧ (s.ie.get c).get m = true then false
      else s.busyAt m) ∧
    (∀ off, t.regByte off = s.regByte off))

/-- R153: a completion asks only the enable bit: not whether the source is pending, claimed or by whom,
nor whether its gateway waits. Completions in either order leave the same gateways busy, and one given
twice is one given once. -/
def Obligations.CompletionIsNotCheckedAgainstClaims : Prop :=
  (∀ (s : State) (c : Nat) (v : Word) (ip' busy' : Table Bool), s.ieAt c v.toNat = true →
    ∃ t, exec (.complete c v) { s with ip := ip', gwBusy := busy' } = .next t ∧
      t.busyAt v.toNat = false ∧ t.ip = ip') ∧
  (∀ (s : State) (c d : Nat) (v w : Word), ∃ t u t' u', exec (.complete c v) s = .next t ∧
    exec (.complete d w) t = .next u ∧ exec (.complete d w) s = .next t' ∧
    exec (.complete c v) t' = .next u' ∧ ∀ m, u.busyAt m = u'.busyAt m) ∧
  (∀ (s : State) (c : Nat) (v : Word), ∃ t u, exec (.complete c v) s = .next t ∧
    exec (.complete c v) t = .next u ∧ ∀ m, u.busyAt m = t.busyAt m)

/-- R91, D12: an operation on a reserved offset (RESERVED.SRC0, RESERVED.GAP1, RESERVED.GAP2,
RESERVED.CTX) does what `RESERVED_ACCESS` says: it is refused, or a read returns 0 and a write changes
nothing. -/
def Obligations.ReservedAccessFollowsParameter : Prop :=
  ∀ (s : State) (i : Instr), isReserved i = true →
    (s.cfg.reservedAccess = .refuse → exec i s = .refused .reserved) ∧
    (s.cfg.reservedAccess = .readZeroIgnoreWrite →
      exec i s = .next (if accessFor i = .read then { s with rdata := some 0 } else s))

/-- R28: the words of the region, through which the statements above say what is unchanged, are what the
reads of the registers return. Its bytes are those of the words in little-endian order, which R57 takes
from general knowledge and the model presumes (PRESUMED, log entry 18). -/
def Obligations.RegionHoldsWhatReadsReturn : Prop :=
  (∀ (s : State) (i : Instr), i.wellFormed = true → accessFor i = .read → isReserved i = false →
    (∀ c, i ≠ .claim c) → exec i s = .next (s.respond (s.regWord (offsetOf i)))) ∧
  (∀ (s : State) (off : Nat), off % 4 = 0 →
    s.regWord off =
      s.regByte (off + 3) ++ (s.regByte (off + 2) ++ (s.regByte (off + 1) ++ s.regByte off)))

/-- But for the claim, repeating an operation with no step between changes nothing more: the reads and the
writes of registers by R58, the reserved offsets by R91, and the completion by cases 4 and 5 of R153 (the
spec's decision D17, log entry 14); R58 calls the completion non-idempotent for the steps that may come
between. The canonical form makes equal tables equal data (log entry 24). -/
def Obligations.RepeatedOperationsChangeNothing : Prop :=
  ∀ (s t : State) (i : Instr), s.Canonical → exec i s = .next t → (∀ c, i ≠ .claim c) →
    exec i t = .next t

/-- R101, R226: a value that is legal is stored as written, so every combination of the read-write bits
can be held; writing all ones and then zeros, and reading each back, tells the read-write bits. -/
def Obligations.PriorityBitsCanBeDiscovered : Prop :=
  ∀ (s : State) (n : Nat), s.cfg.Wf → 1 ≤ n → n ≤ s.cfg.nsrc →
    (∀ v, v &&& ~~~(s.cfg.prioRwMask.get n) = s.cfg.prioFixed.get n →
      ∃ t, exec (.priorityWr n v) s = .next t ∧ exec (.priorityRd n) t = .next (t.respond v)) ∧
    (∃ t u hi lo, exec (.priorityWr n 0xFFFFFFFF) s = .next t ∧
      exec (.priorityRd n) t = .next (t.respond hi) ∧ exec (.priorityWr n 0) t = .next u ∧
      exec (.priorityRd n) u = .next (u.respond lo) ∧
      lo = s.cfg.prioFixed.get n ∧ hi = s.cfg.prioRwMask.get n ||| s.cfg.prioFixed.get n ∧
      hi ^^^ lo = s.cfg.prioRwMask.get n)

/-- R124, R122: what an enable word reads after a write: the written bit where it is read-write, its
constant where it is hardwired, 0 where there is no source. -/
def Obligations.EnableReadBackKeepsHardwiredBits : Prop :=
  ∀ (s : State) (c w : Nat) (v : Word), s.Inv → c < s.cfg.nctx →
    ∃ t r, exec (.enableWr c w v) s = .next t ∧ exec (.enableRd c w) t = .next (t.respond r) ∧
      ∀ b, b < 32 → r.getLsbD b =
        if 32 * w + b = 0 ∨ s.cfg.nsrc < 32 * w + b then false
        else if s.hard0 c (32 * w + b) = true then false
        else if s.hard1 c (32 * w + b) = true then true
        else v.getLsbD b

/-! ## Arbitration and EIP -/

/-- R104: the higher priority is ahead, the smaller ID among equals; of two sources exactly one is ahead
of the other, and the order is transitive. -/
def Obligations.BeatsIsStrictTotalOrder : Prop :=
  ∀ s : State,
    (∀ n m, s.hasSource n = true → s.hasSource m = true →
      (s.beats n m = true ↔
        (s.prio.get m).toNat < (s.prio.get n).toNat ∨ (s.prio.get n = s.prio.get m ∧ n < m))) ∧
    (∀ n m, n ≠ m → s.beats n m = !s.beats m n) ∧
    (∀ n, s.beats n n = false) ∧
    (∀ n m k, s.beats n m = true → s.beats m k = true → s.beats n k = true)

/-- R143: the thresholds have no part in a claim, and every source that can notify a context can be
claimed by it. -/
def Obligations.ClaimIgnoresThreshold : Prop :=
  (∀ (s : State) (c : Nat) (thr' : Table Word), ∃ t, exec (.claim c) s = .next t ∧
    exec (.claim c) { s with thr := thr' } = .next { t with thr := thr' }) ∧
  (∀ (s : State) (c n : Nat), s.ipAt n = true → s.ieAt c n = true → s.thrAt c < s.prioAt n →
    s.candidate c n = true ∧ ∃ t m, exec (.claim c) s = .next t ∧
      t.rdata = some (BitVec.ofNat 32 m) ∧ m ≠ 0 ∧ s.prioAt n ≤ s.prioAt m)

/-- R142, R146: two claims, by whichever contexts, never return one forwarded request: not where the second
follows at once, and not where steps of any kind, with anything arriving, come between, as long as none of
them sets the pending bit of the source again. -/
def Obligations.RacingClaimsReturnDifferentSources : Prop :=
  (∀ (s t u : State) (c d : Nat) (id : Word), s.cfg.nsrc ≤ 1023 → exec (.claim c) s = .next t →
    t.rdata = some id → id ≠ 0 → exec (.claim d) t = .next u → u.rdata ≠ some id) ∧
  (∀ (σ : Nat → State) (k c d : Nat) (id : Word), (σ 0).cfg.nsrc ≤ 1023 → 1 ≤ k →
    (∀ i, i ≤ k → ∃ t l, step (σ i) = .next t ∧ σ (i + 1) = t.setTodo l) →
    (σ 0).nextIs (.claim c) → (σ 1).rdata = some id → id ≠ 0 →
    (∀ i, 1 ≤ i → i < k → (σ i).ipAt id.toNat = false → (σ (i + 1)).ipAt id.toNat = false) →
    (σ k).nextIs (.claim d) → (σ (k + 1)).rdata ≠ some id)

/-- R180: EIP of a context is set exactly where some source is pending, enabled for it and of a priority
above its threshold, compared unsigned; so a source of priority 0 never raises it, and with threshold 0
every enabled pending source of non-zero priority does. -/
def Obligations.EipIsSomeActiveSource : Prop :=
  (∀ (s : State) (c : Nat), s.eip c = true ↔
    ∃ n, 1 ≤ n ∧ n ≤ s.cfg.nsrc ∧ c < s.cfg.nctx ∧ s.ip.get n = true ∧
      (s.ie.get c).get n = true ∧ (s.thr.get c).toNat < (s.prio.get n).toNat) ∧
  (∀ (s : State) (c : Nat), (∀ n, s.ipAt n = true → s.ieAt c n = true → s.prioAt n = 0) →
    s.eip c = false) ∧
  (∀ (s : State) (c n : Nat), s.thrAt c = 0 → s.ipAt n = true → s.ieAt c n = true →
    s.prioAt n ≠ 0 → s.eip c = true)

/-- R144: after a claim EIP of any context is what the sources still pending make it. -/
def Obligations.EipAfterClaim : Prop :=
  ∀ (s t : State) (c d : Nat), exec (.claim c) s = .next t → s.hasContext c = true →
    (t.eip d = true ↔ ∃ n, n ≠ s.best c ∧ s.activeFor d n = true)

/-- R123, R133, R181: the enables and the threshold of one context have no part in what another context
is notified of or can claim. -/
def Obligations.ContextsAreIndependent : Prop :=
  ∀ (s : State) (c d w : Nat) (v : Word), d ≠ c →
    (∃ t, exec (.enableWr c w v) s = .next t ∧ t.eip d = s.eip d ∧ t.best d = s.best d) ∧
    (∃ t, exec (.thresholdWr c v) s = .next t ∧ t.eip d = s.eip d ∧ t.best d = s.best d)

/-! ## Gateways and the environment -/

/-- R163: GW.LEVEL is enabled exactly for an idle level gateway whose signal is asserted; taken, it sets
the pending bit and the busy bit of its source and of no other. -/
def Obligations.LevelGatewayForwards : Prop :=
  (∀ (s : State) (n : Nat), s.agentEnabled (.gwLevel n) = true ↔
    1 ≤ n ∧ n ≤ s.cfg.nsrc ∧ s.cfg.gwKind.get n = .level ∧ s.gwBusy.get n = false ∧
      s.sig.get n = true) ∧
  (∀ (s : State) (n : Nat) (rest : List Event), s.todo = .agent (.gwLevel n) :: rest →
    1 ≤ n → n ≤ s.cfg.nsrc → s.cfg.gwKind.get n = .level → s.gwBusy.get n = false →
    s.sig.get n = true →
    ∃ t, step s = .next t ∧
      t = { s with todo := rest, ip := t.ip, gwBusy := t.gwBusy, nq := t.nq } ∧
      (∀ m, t.ipAt m = if m = n then true else s.ipAt m) ∧
      (∀ m, t.busyAt m = if m = n then true else s.busyAt m))

/-- R165, R166, R168: an edge, or a message that names the source, at an idle edge gateway is forwarded;
at a busy one it is counted up to the maximum, or lost where the gateway does not count. -/
def Obligations.EdgeGatewayForwardsCountsOrIgnores : Prop :=
  ∀ (s : State) (n : Nat) (rest : List Event),
    s.todo = .env (.edge n) :: rest ∨ s.todo = .env (.msi n) :: rest →
    1 ≤ n → n ≤ s.cfg.nsrc → s.cfg.gwKind.get n ≠ .level →
    (s.gwBusy.get n = false → ∃ t, step s = .next t ∧
      t = { s with todo := rest, ip := t.ip, gwBusy := t.gwBusy, nq := t.nq } ∧
      (∀ m, t.ipAt m = if m = n then true else s.ipAt m) ∧
      (∀ m, t.busyAt m = if m = n then true else s.busyAt m)) ∧
    (s.gwBusy.get n = true → s.cfg.gwKind.get n = .edgeCount → ∃ t, step s = .next t ∧
      t = { s with todo := rest, gwCount := t.gwCount } ∧
      (∀ m, t.countAt m =
        if m = n then min (s.gwCount.get n + 1) (s.cfg.gwCountMax.get n) else s.countAt m)) ∧
    (s.gwBusy.get n = true → s.cfg.gwKind.get n = .edgeIgnore →
      step s = .next { s with todo := rest })

/-- R167: GW.COUNTED is enabled exactly for an idle counting gateway with edges waiting; taken, it forwards
a request and takes one from the counter. -/
def Obligations.CountingGatewayForwardsCountedEdge : Prop :=
  (∀ (s : State) (n : Nat), s.agentEnabled (.gwCounted n) = true ↔
    1 ≤ n ∧ n ≤ s.cfg.nsrc ∧ s.cfg.gwKind.get n = .edgeCount ∧ s.gwBusy.get n = false ∧
      0 < s.gwCount.get n) ∧
  (∀ (s : State) (n : Nat) (rest : List Event), s.todo = .agent (.gwCounted n) :: rest →
    1 ≤ n → n ≤ s.cfg.nsrc → s.cfg.gwKind.get n = .edgeCount → s.gwBusy.get n = false →
    0 < s.gwCount.get n →
    ∃ t, step s = .next t ∧
      t = { s with todo := rest, ip := t.ip, gwBusy := t.gwBusy, gwCount := t.gwCount, nq := t.nq } ∧
      (∀ m, t.ipAt m = if m = n then true else s.ipAt m) ∧
      (∀ m, t.busyAt m = if m = n then true else s.busyAt m) ∧
      (∀ m, t.countAt m = if m = n then s.gwCount.get n - 1 else s.countAt m))

/-- R164, R169: SIG changes the level of its source and nothing else, so that no request is taken back;
an edge at a level gateway does nothing; the PLIC refuses no step of the environment. The first and the
third clause also cover a step that names N = 0 or N > NSRC: that the machine answers it, and that such an
edge or message is dropped, is the model's choice and no rule of the spec (DESIGN CHOICE, log entry 32);
that a message at a level gateway does what R169 says of an edge is log entry 21. -/
def Obligations.EnvironmentStepsAreNeverRefused : Prop :=
  (∀ (s : State) (e : EnvStep) (rest : List Event), s.todo = .env e :: rest →
    ∃ t, step s = .next t) ∧
  (∀ (s : State) (n : Nat) (l : Bool) (rest : List Event), s.todo = .env (.sig n l) :: rest →
    1 ≤ n → n ≤ s.cfg.nsrc →
    ∃ t, step s = .next t ∧ t = { s with todo := rest, sig := t.sig } ∧
      ∀ m, t.sigAt m = if m = n then l else s.sigAt m) ∧
  (∀ (s : State) (n : Nat) (rest : List Event),
    s.todo = .env (.edge n) :: rest ∨ s.todo = .env (.msi n) :: rest →
    s.cfg.gwKind.get n = .level → step s = .next { s with todo := rest })

/-- The model's choice (log entry 6): a step of the PLIC's own that is scheduled where it is not enabled
is passed over. -/
def Obligations.DisabledAgentStepsArePassedOver : Prop :=
  ∀ (s : State) (a : AgentStep) (rest : List Event), s.todo = .agent a :: rest →
    s.agentEnabled a = false → step s = .next { s with todo := rest }

/-- R182: NOTIFY removes the first `k` queued changes of its context and delivers the last of them; the
other contexts and every other register are unchanged. -/
def Obligations.NotifyDeliversQueuedChanges : Prop :=
  ∀ (s : State) (c k : Nat) (rest : List Event), s.todo = .agent (.notify c k) :: rest →
    c < s.cfg.nctx → (hk : 1 ≤ k) → (hl : k ≤ (s.nq.get c).length) →
    ∃ t, step s = .next t ∧ t = { s with todo := rest, notif := t.notif, nq := t.nq } ∧
      (∀ d, t.nqAt d = if d = c then (s.nq.get c).drop k else s.nqAt d) ∧
      (∀ d, t.notifAt d = if d = c then (s.nq.get c)[k - 1]'(by omega) else s.notifAt d)

/-- R182, R184: over every step, the queue of a context loses some of its oldest entries, the last of
which is then the notification, and gains the new value of EIP at its end exactly where EIP changed; so
changes are queued when they happen and delivered in the order EIP took them. -/
def Obligations.QueueIsTheHistoryOfEip : Prop :=
  ∀ (s t : State) (c : Nat), step s = .next t → c < s.cfg.nctx →
    ∃ k, k ≤ (s.nqAt c).length ∧
      t.nqAt c = (s.nqAt c).drop k ++ (if t.eip c = s.eip c then [] else [t.eip c]) ∧
      t.notifAt c = ((s.nqAt c).take k).getLastD (s.notifAt c)

/-- R185, R193: the notification of a context is the `meip` or the `seip` bit of the hart it stands for,
where that hart and mode have one context. -/
def Obligations.NotificationIsMeipOrSeip : Prop :=
  ∀ (s : State) (c h : Nat) (m : PrivMode), c < s.cfg.nctx → s.cfg.ctxMap.get c = .hart h m →
    (∀ d, d < s.cfg.nctx → s.cfg.ctxMap.get d = .hart h m → d = c) →
    (m = .machine → s.meip h = s.notif.get c) ∧ (m = .supervisor → s.seip h = s.notif.get c)

/-! ## Rules of the whole machine -/

/-- R24: whatever the machine does, a pending bit is cleared only by the claim that returns its source. -/
def Obligations.PendingBitClearedOnlyByClaim : Prop :=
  ∀ (s t : State) (n : Nat), step s = .next t → s.ipAt n = true → t.ipAt n = false →
    ∃ c, s.nextIs (.claim c) ∧ s.best c = n ∧ t.rdata = some (BitVec.ofNat 32 n)

/-- R162: while a gateway is busy it forwards nothing; a request is forwarded by setting both bits in one
step; only an accepted completion that names the source frees its gateway, so a claim does not. -/
def Obligations.GatewayForwardsOnlyWhenFreed : Prop :=
  ∀ (s t : State) (n : Nat), step s = .next t →
    (s.ipAt n = false → t.ipAt n = true → s.busyAt n = false ∧ t.busyAt n = true) ∧
    (s.busyAt n = false → t.busyAt n = true → t.ipAt n = true) ∧
    (s.busyAt n = true → t.busyAt n = false →
      ∃ c v, s.nextIs (.complete c v) ∧ v.toNat = n ∧ s.ieAt c n = true)

/-- R195: the life of a source. The pair of its pending and busy bits moves only as the table of R195
says: idle to pending, pending to in service or to pending with the gateway free, in service to idle,
and pending with the gateway free to idle or to pending. -/
def Obligations.SourceLifeCycle : Prop :=
  ∀ (s t : State) (n : Nat), step s = .next t →
    (t.ipAt n, t.busyAt n) = (s.ipAt n, s.busyAt n) ∨
    ((s.ipAt n, s.busyAt n), (t.ipAt n, t.busyAt n)) ∈
      [((false, false), (true, true)), ((true, true), (false, true)), ((true, true), (true, false)),
       ((false, true), (false, false)), ((true, false), (false, false)),
       ((true, false), (true, true))]

/-- R22, R25, R26: a priority, an enable bit and a threshold are changed only by the write of their own
register; the implementation parameters by nothing (spec 10_state.md, head). -/
def Obligations.RegistersChangeOnlyByTheirWrites : Prop :=
  ∀ (s t : State), step s = .next t →
    t.cfg = s.cfg ∧
    (∀ n, t.prioAt n ≠ s.prioAt n → ∃ v, s.nextIs (.priorityWr n v)) ∧
    (∀ c n, t.ieAt c n ≠ s.ieAt c n → ∃ v, s.nextIs (.enableWr c (n / 32) v)) ∧
    (∀ c, t.thrAt c ≠ s.thrAt c → ∃ v, s.nextIs (.thresholdWr c v))

/-- R36, R33, R182: the invariants of R36 hold after every step from every state that has them. -/
def Obligations.StepKeepsInvariants : Prop :=
  ∀ s t : State, s.Inv → step s = .next t → t.Inv

/-- Every step keeps the canonical form of the tables (the model's own representation, log entry 24). -/
def Obligations.StepKeepsCanonicalForm : Prop :=
  ∀ s t : State, s.Canonical → step s = .next t → t.Canonical

/-- R36, R40, R41: the simulator's reset state of every configuration that meets the spec's constraints
has the invariants. That it is the reset state is the model's choice (log entry 3). -/
def Obligations.ResetStateOfAnyConfigurationIsProper : Prop :=
  ∀ k : Config, k.Wf → (State.resetOf k).Inv ∧ (State.resetOf k).Canonical ∧
    (State.resetOf k).PendingBusy ∧ (State.resetOf k).atRest = true

/-- The machine's own reset state has the invariants (its configuration and its values are the model's
choice, log entries 1, 2 and 3). -/
def Obligations.ResetStateIsProper : Prop :=
  State.reset.Inv ∧ State.reset.Canonical ∧ State.reset.PendingBusy

/-- R36, last sentence: a pending source has a busy gateway in every state that steps reach from a state
where it has, as long as no completion names a source that is still pending. -/
def Obligations.PendingSourceHasBusyGateway : Prop :=
  ∀ s t : State, s.PendingBusy → step s = .next t →
    (∀ c v, s.nextIs (.complete c v) → s.ipAt v.toNat = false) → t.PendingBusy

/-- R183, R170: left alone, the machine comes to rest after a bounded number of its own steps, whichever
of the enabled ones it takes and however many changes each delivery takes (log entry 5); then every
target has been told the present EIP, no gateway has anything to forward, and it stays so. -/
def Obligations.EveryEipChangeIsDelivered : Prop :=
  ∀ s : State, s.Inv → s.todo = [] →
    ∃ k t, k ≤ s.restBound ∧ core.run k s = .next t ∧ t.atRest = true ∧ step t = .next t ∧
      (∀ c, c < t.cfg.nctx → t.notifAt c = t.eip c) ∧
      (∀ n, t.levelEnabled n = false ∧ t.countedEnabled n = false)

/-! ## Runs in which accesses keep arriving -/

/-- R170, R163, R167: whatever keeps arriving, an idle level gateway whose signal stays asserted forwards a
request at last, and so does an idle counting gateway with an edge waiting. -/
def Obligations.FairRunForwardsRequests : Prop :=
  ∀ (σ : Nat → State) (n i : Nat), FairRun σ → 1 ≤ n → n ≤ (σ i).cfg.nsrc → (σ i).busyAt n = false →
    ((σ i).cfg.gwKind.get n = .level → (∀ j, i ≤ j → (σ j).sigAt n = true) →
      ∃ j, i < j ∧ (σ j).ipAt n = true ∧ (σ j).busyAt n = true) ∧
    ((σ i).cfg.gwKind.get n = .edgeCount → 0 < (σ i).countAt n →
      ∃ j, i < j ∧ (σ j).ipAt n = true ∧ (σ j).busyAt n = true)

/-- R183: whatever keeps arriving, if EIP of a context stops changing, after finitely many steps its queue
is empty and its notification is the present EIP, and both stay so. -/
def Obligations.FairRunDeliversEip : Prop :=
  ∀ (σ : Nat → State) (c i : Nat), FairRun σ → (σ i).Inv → c < (σ i).cfg.nctx →
    (∀ j, i ≤ j → (σ j).eip c = (σ i).eip c) →
    ∃ k, i ≤ k ∧ ∀ j, k ≤ j → (σ j).nqAt c = [] ∧ (σ j).notifAt c = (σ i).eip c

/-- R16, R169, R170, R183: the fairness forbids no traffic: any endless sequence of steps from outside, each
of which the machine answers, is taken in its order by a fair run that has nothing but steps of the PLIC's
own in between. -/
def Obligations.EndlessTrafficHasFairRun : Prop :=
  ∀ (s : State) (ev : Nat → Event),
    (∀ i u, u.cfg = s.cfg → ∃ t, runEvent (ev i) u = .next t) →
    ∃ σ : Nat → State, FairRun σ ∧ σ 0 = s.setTodo (σ 0).todo ∧
      (∀ i, (σ (2 * i)).nextEvent = some (ev i)) ∧
      ∀ i, (σ (2 * i + 1)).nextEvent = none ∨ ∃ a, (σ (2 * i + 1)).nextEvent = some (.agent a)
end

