-- ==== Sys2Proof/Laws/Arbitration.lean ====
section
/-! SUPPORT. What the selection of R141 answers: nothing where there is no candidate, else the candidate
that beats every other. -/

namespace Sys2Proof.Machine

namespace State

variable (s : State)

theorem beats_iff (n m : Nat) :
    s.beats n m = true ↔
      s.prioAt m < s.prioAt n ∨ (s.prioAt n = s.prioAt m ∧ n < m) := by
  simp [beats]

theorem beats_trans (a b c : Nat) (h1 : s.beats a b = true) (h2 : s.beats b c = true) :
    s.beats a c = true := by
  rw [beats_iff] at *
  rcases h1 with h1 | ⟨h1, h1'⟩ <;> rcases h2 with h2 | ⟨h2, h2'⟩
  · exact .inl (BitVec.lt_trans h2 h1)
  · exact .inl (h2 ▸ h1)
  · exact .inl (h1 ▸ h2)
  · exact .inr ⟨h1.trans h2, lt_trans h1' h2'⟩

theorem beats_or (a b : Nat) (h : a ≠ b) : s.beats a b = true ∨ s.beats b a = true := by
  simp only [beats_iff]
  rcases BitVec.lt_trichotomy (s.prioAt a) (s.prioAt b) with hp | hp | hp
  · exact .inr (.inl hp)
  · rcases Nat.lt_or_gt_of_ne h with hl | hl
    · exact .inl (.inr ⟨hp, hl⟩)
    · exact .inr (.inr ⟨hp.symm, hl⟩)
  · exact .inl (.inl hp)

theorem bestUpTo_spec (c k : Nat) :
    (s.bestUpTo c k = 0 ∧ ∀ m, 1 ≤ m → m ≤ k → s.candidate c m = false) ∨
    (1 ≤ s.bestUpTo c k ∧ s.bestUpTo c k ≤ k ∧ s.candidate c (s.bestUpTo c k) = true ∧
      ∀ m, 1 ≤ m → m ≤ k → m ≠ s.bestUpTo c k → s.candidate c m = true →
        s.beats (s.bestUpTo c k) m = true) := by
  induction k with
  | zero => exact .inl ⟨rfl, fun m h1 h2 => by omega⟩
  | succ k ih =>
    have hs : s.bestUpTo c (k + 1) =
        if s.candidate c (k + 1) && (decide (s.bestUpTo c k = 0) || s.beats (k + 1) (s.bestUpTo c k))
        then k + 1 else s.bestUpTo c k := rfl
    rw [hs]
    by_cases hc : s.candidate c (k + 1) = true
    · rcases ih with ⟨h0, hnone⟩ | ⟨hpos, hle, hcand, hall⟩
      · rw [if_pos (by simp [hc, h0])]
        refine .inr ⟨by omega, le_rfl, hc, fun m h1 h2 hne hm => ?_⟩
        have := hnone m h1 (by omega)
        simp_all
      · by_cases hb : s.beats (k + 1) (s.bestUpTo c k) = true
        · rw [if_pos (by simp [hc, hb])]
          refine .inr ⟨by omega, le_rfl, hc, fun m h1 h2 hne hm => ?_⟩
          by_cases hmb : m = s.bestUpTo c k
          · rw [hmb]; exact hb
          · exact s.beats_trans _ _ _ hb (hall m h1 (by omega) hmb hm)
        · have hz : s.bestUpTo c k ≠ 0 := by omega
          rw [if_neg (by simp [hb, hz])]
          refine .inr ⟨hpos, by omega, hcand, fun m h1 h2 hne hm => ?_⟩
          by_cases hmk : m = k + 1
          · subst hmk
            exact (s.beats_or _ _ hne).resolve_left hb
          · exact hall m h1 (by omega) hne hm
    · rw [if_neg (by simp [hc])]
      rcases ih with ⟨h0, hnone⟩ | ⟨hpos, hle, hcand, hall⟩
      · refine .inl ⟨h0, fun m h1 h2 => ?_⟩
        by_cases hmk : m = k + 1
        · subst hmk; simpa using hc
        · exact hnone m h1 (by omega)
      · refine .inr ⟨hpos, by omega, hcand, fun m h1 h2 hne hm => ?_⟩
        by_cases hmk : m = k + 1
        · subst hmk; exact absurd hm hc
        · exact hall m h1 (by omega) hne hm

theorem candidate_hasSource (c n : Nat) (h : s.candidate c n = true) : s.hasSource n = true := by
  simp only [candidate, ipAt, Bool.and_eq_true] at h
  exact h.1.1

/-- The selection, once: 0 where no source is a candidate, else the candidate that beats every other
(R141). -/
theorem best_spec (c : Nat) :
    (s.best c = 0 ∧ ∀ m, s.candidate c m = false) ∨
    (s.hasSource (s.best c) = true ∧ s.candidate c (s.best c) = true ∧
      ∀ m, m ≠ s.best c → s.candidate c m = true → s.beats (s.best c) m = true) := by
  have range : ∀ m, s.candidate c m = true → 1 ≤ m ∧ m ≤ s.cfg.nsrc := fun m hm => by
    simpa [hasSource] using s.candidate_hasSource c m hm
  rcases s.bestUpTo_spec c s.cfg.nsrc with ⟨h0, hnone⟩ | ⟨_, _, hcand, hall⟩
  · refine .inl ⟨h0, fun m => ?_⟩
    by_contra hm
    have hm : s.candidate c m = true := by simpa using hm
    have := hnone m (range m hm).1 (range m hm).2
    simp_all
  · exact .inr ⟨s.candidate_hasSource c _ hcand, hcand,
      fun m hne hm => hall m (range m hm).1 (range m hm).2 hne hm⟩

/-- The selection reads the candidates and the priorities only. -/
theorem best_congr (t : State) (c : Nat) (hn : t.cfg.nsrc = s.cfg.nsrc)
    (hc : ∀ m, t.candidate c m = s.candidate c m) (hb : ∀ a b, t.beats a b = s.beats a b) :
    t.best c = s.best c := by
  have : ∀ k, t.bestUpTo c k = s.bestUpTo c k := fun k => by
    induction k with
    | zero => rfl
    | succ k ih => simp only [bestUpTo, ih, hc, hb]
  simp only [best, this, hn]

end State

end Sys2Proof.Machine
end

