-- ==== Sys2Proof/Laws/State.lean ====
section
/-! SUPPORT. Each field of the state after each update of Machine/Ops.lean: no proof unfolds a record
update. -/

namespace Sys2Proof.Machine

namespace State

variable (s : State)

@[simp] theorem setPrio_cfg (n : Nat) (v : Word) : (s.setPrio n v).cfg = s.cfg := rfl
@[simp] theorem setPrio_prio (n : Nat) (v : Word) : (s.setPrio n v).prio = s.prio.set n v := rfl
@[simp] theorem setPrio_ip (n : Nat) (v : Word) : (s.setPrio n v).ip = s.ip := rfl
@[simp] theorem setPrio_ie (n : Nat) (v : Word) : (s.setPrio n v).ie = s.ie := rfl
@[simp] theorem setPrio_thr (n : Nat) (v : Word) : (s.setPrio n v).thr = s.thr := rfl
@[simp] theorem setPrio_gwBusy (n : Nat) (v : Word) : (s.setPrio n v).gwBusy = s.gwBusy := rfl
@[simp] theorem setPrio_gwCount (n : Nat) (v : Word) : (s.setPrio n v).gwCount = s.gwCount := rfl
@[simp] theorem setPrio_notif (n : Nat) (v : Word) : (s.setPrio n v).notif = s.notif := rfl
@[simp] theorem setPrio_nq (n : Nat) (v : Word) : (s.setPrio n v).nq = s.nq := rfl
@[simp] theorem setPrio_sig (n : Nat) (v : Word) : (s.setPrio n v).sig = s.sig := rfl
@[simp] theorem setPrio_rdata (n : Nat) (v : Word) : (s.setPrio n v).rdata = s.rdata := rfl
@[simp] theorem setPrio_todo (n : Nat) (v : Word) : (s.setPrio n v).todo = s.todo := rfl
@[simp] theorem setPrio_seq (n : Nat) (v : Word) : (s.setPrio n v).seq = s.seq := rfl

@[simp] theorem setIp_cfg (n : Nat) (b : Bool) : (s.setIp n b).cfg = s.cfg := rfl
@[simp] theorem setIp_prio (n : Nat) (b : Bool) : (s.setIp n b).prio = s.prio := rfl
@[simp] theorem setIp_ip (n : Nat) (b : Bool) : (s.setIp n b).ip = s.ip.set n b := rfl
@[simp] theorem setIp_ie (n : Nat) (b : Bool) : (s.setIp n b).ie = s.ie := rfl
@[simp] theorem setIp_thr (n : Nat) (b : Bool) : (s.setIp n b).thr = s.thr := rfl
@[simp] theorem setIp_gwBusy (n : Nat) (b : Bool) : (s.setIp n b).gwBusy = s.gwBusy := rfl
@[simp] theorem setIp_gwCount (n : Nat) (b : Bool) : (s.setIp n b).gwCount = s.gwCount := rfl
@[simp] theorem setIp_notif (n : Nat) (b : Bool) : (s.setIp n b).notif = s.notif := rfl
@[simp] theorem setIp_nq (n : Nat) (b : Bool) : (s.setIp n b).nq = s.nq := rfl
@[simp] theorem setIp_sig (n : Nat) (b : Bool) : (s.setIp n b).sig = s.sig := rfl
@[simp] theorem setIp_rdata (n : Nat) (b : Bool) : (s.setIp n b).rdata = s.rdata := rfl
@[simp] theorem setIp_todo (n : Nat) (b : Bool) : (s.setIp n b).todo = s.todo := rfl
@[simp] theorem setIp_seq (n : Nat) (b : Bool) : (s.setIp n b).seq = s.seq := rfl

@[simp] theorem setIeRow_cfg (c : Nat) (row : Table Bool) : (s.setIeRow c row).cfg = s.cfg := rfl
@[simp] theorem setIeRow_prio (c : Nat) (row : Table Bool) : (s.setIeRow c row).prio = s.prio := rfl
@[simp] theorem setIeRow_ip (c : Nat) (row : Table Bool) : (s.setIeRow c row).ip = s.ip := rfl
@[simp] theorem setIeRow_ie (c : Nat) (row : Table Bool) : (s.setIeRow c row).ie = s.ie.set c row := rfl
@[simp] theorem setIeRow_thr (c : Nat) (row : Table Bool) : (s.setIeRow c row).thr = s.thr := rfl
@[simp] theorem setIeRow_gwBusy (c : Nat) (row : Table Bool) : (s.setIeRow c row).gwBusy = s.gwBusy := rfl
@[simp] theorem setIeRow_gwCount (c : Nat) (row : Table Bool) : (s.setIeRow c row).gwCount = s.gwCount := rfl
@[simp] theorem setIeRow_notif (c : Nat) (row : Table Bool) : (s.setIeRow c row).notif = s.notif := rfl
@[simp] theorem setIeRow_nq (c : Nat) (row : Table Bool) : (s.setIeRow c row).nq = s.nq := rfl
@[simp] theorem setIeRow_sig (c : Nat) (row : Table Bool) : (s.setIeRow c row).sig = s.sig := rfl
@[simp] theorem setIeRow_rdata (c : Nat) (row : Table Bool) : (s.setIeRow c row).rdata = s.rdata := rfl
@[simp] theorem setIeRow_todo (c : Nat) (row : Table Bool) : (s.setIeRow c row).todo = s.todo := rfl
@[simp] theorem setIeRow_seq (c : Nat) (row : Table Bool) : (s.setIeRow c row).seq = s.seq := rfl

@[simp] theorem setThr_cfg (c : Nat) (v : Word) : (s.setThr c v).cfg = s.cfg := rfl
@[simp] theorem setThr_prio (c : Nat) (v : Word) : (s.setThr c v).prio = s.prio := rfl
@[simp] theorem setThr_ip (c : Nat) (v : Word) : (s.setThr c v).ip = s.ip := rfl
@[simp] theorem setThr_ie (c : Nat) (v : Word) : (s.setThr c v).ie = s.ie := rfl
@[simp] theorem setThr_thr (c : Nat) (v : Word) : (s.setThr c v).thr = s.thr.set c v := rfl
@[simp] theorem setThr_gwBusy (c : Nat) (v : Word) : (s.setThr c v).gwBusy = s.gwBusy := rfl
@[simp] theorem setThr_gwCount (c : Nat) (v : Word) : (s.setThr c v).gwCount = s.gwCount := rfl
@[simp] theorem setThr_notif (c : Nat) (v : Word) : (s.setThr c v).notif = s.notif := rfl
@[simp] theorem setThr_nq (c : Nat) (v : Word) : (s.setThr c v).nq = s.nq := rfl
@[simp] theorem setThr_sig (c : Nat) (v : Word) : (s.setThr c v).sig = s.sig := rfl
@[simp] theorem setThr_rdata (c : Nat) (v : Word) : (s.setThr c v).rdata = s.rdata := rfl
@[simp] theorem setThr_todo (c : Nat) (v : Word) : (s.setThr c v).todo = s.todo := rfl
@[simp] theorem setThr_seq (c : Nat) (v : Word) : (s.setThr c v).seq = s.seq := rfl

@[simp] theorem setBusy_cfg (n : Nat) (b : Bool) : (s.setBusy n b).cfg = s.cfg := rfl
@[simp] theorem setBusy_prio (n : Nat) (b : Bool) : (s.setBusy n b).prio = s.prio := rfl
@[simp] theorem setBusy_ip (n : Nat) (b : Bool) : (s.setBusy n b).ip = s.ip := rfl
@[simp] theorem setBusy_ie (n : Nat) (b : Bool) : (s.setBusy n b).ie = s.ie := rfl
@[simp] theorem setBusy_thr (n : Nat) (b : Bool) : (s.setBusy n b).thr = s.thr := rfl
@[simp] theorem setBusy_gwBusy (n : Nat) (b : Bool) : (s.setBusy n b).gwBusy = s.gwBusy.set n b := rfl
@[simp] theorem setBusy_gwCount (n : Nat) (b : Bool) : (s.setBusy n b).gwCount = s.gwCount := rfl
@[simp] theorem setBusy_notif (n : Nat) (b : Bool) : (s.setBusy n b).notif = s.notif := rfl
@[simp] theorem setBusy_nq (n : Nat) (b : Bool) : (s.setBusy n b).nq = s.nq := rfl
@[simp] theorem setBusy_sig (n : Nat) (b : Bool) : (s.setBusy n b).sig = s.sig := rfl
@[simp] theorem setBusy_rdata (n : Nat) (b : Bool) : (s.setBusy n b).rdata = s.rdata := rfl
@[simp] theorem setBusy_todo (n : Nat) (b : Bool) : (s.setBusy n b).todo = s.todo := rfl
@[simp] theorem setBusy_seq (n : Nat) (b : Bool) : (s.setBusy n b).seq = s.seq := rfl

@[simp] theorem setCount_cfg (n k : Nat) : (s.setCount n k).cfg = s.cfg := rfl
@[simp] theorem setCount_prio (n k : Nat) : (s.setCount n k).prio = s.prio := rfl
@[simp] theorem setCount_ip (n k : Nat) : (s.setCount n k).ip = s.ip := rfl
@[simp] theorem setCount_ie (n k : Nat) : (s.setCount n k).ie = s.ie := rfl
@[simp] theorem setCount_thr (n k : Nat) : (s.setCount n k).thr = s.thr := rfl
@[simp] theorem setCount_gwBusy (n k : Nat) : (s.setCount n k).gwBusy = s.gwBusy := rfl
@[simp] theorem setCount_gwCount (n k : Nat) : (s.setCount n k).gwCount = s.gwCount.set n k := rfl
@[simp] theorem setCount_notif (n k : Nat) : (s.setCount n k).notif = s.notif := rfl
@[simp] theorem setCount_nq (n k : Nat) : (s.setCount n k).nq = s.nq := rfl
@[simp] theorem setCount_sig (n k : Nat) : (s.setCount n k).sig = s.sig := rfl
@[simp] theorem setCount_rdata (n k : Nat) : (s.setCount n k).rdata = s.rdata := rfl
@[simp] theorem setCount_todo (n k : Nat) : (s.setCount n k).todo = s.todo := rfl
@[simp] theorem setCount_seq (n k : Nat) : (s.setCount n k).seq = s.seq := rfl

@[simp] theorem setSig_cfg (n : Nat) (l : Bool) : (s.setSig n l).cfg = s.cfg := rfl
@[simp] theorem setSig_prio (n : Nat) (l : Bool) : (s.setSig n l).prio = s.prio := rfl
@[simp] theorem setSig_ip (n : Nat) (l : Bool) : (s.setSig n l).ip = s.ip := rfl
@[simp] theorem setSig_ie (n : Nat) (l : Bool) : (s.setSig n l).ie = s.ie := rfl
@[simp] theorem setSig_thr (n : Nat) (l : Bool) : (s.setSig n l).thr = s.thr := rfl
@[simp] theorem setSig_gwBusy (n : Nat) (l : Bool) : (s.setSig n l).gwBusy = s.gwBusy := rfl
@[simp] theorem setSig_gwCount (n : Nat) (l : Bool) : (s.setSig n l).gwCount = s.gwCount := rfl
@[simp] theorem setSig_notif (n : Nat) (l : Bool) : (s.setSig n l).notif = s.notif := rfl
@[simp] theorem setSig_nq (n : Nat) (l : Bool) : (s.setSig n l).nq = s.nq := rfl
@[simp] theorem setSig_sig (n : Nat) (l : Bool) : (s.setSig n l).sig = s.sig.set n l := rfl
@[simp] theorem setSig_rdata (n : Nat) (l : Bool) : (s.setSig n l).rdata = s.rdata := rfl
@[simp] theorem setSig_todo (n : Nat) (l : Bool) : (s.setSig n l).todo = s.todo := rfl
@[simp] theorem setSig_seq (n : Nat) (l : Bool) : (s.setSig n l).seq = s.seq := rfl

@[simp] theorem setNotif_cfg (c : Nat) (b : Bool) : (s.setNotif c b).cfg = s.cfg := rfl
@[simp] theorem setNotif_prio (c : Nat) (b : Bool) : (s.setNotif c b).prio = s.prio := rfl
@[simp] theorem setNotif_ip (c : Nat) (b : Bool) : (s.setNotif c b).ip = s.ip := rfl
@[simp] theorem setNotif_ie (c : Nat) (b : Bool) : (s.setNotif c b).ie = s.ie := rfl
@[simp] theorem setNotif_thr (c : Nat) (b : Bool) : (s.setNotif c b).thr = s.thr := rfl
@[simp] theorem setNotif_gwBusy (c : Nat) (b : Bool) : (s.setNotif c b).gwBusy = s.gwBusy := rfl
@[simp] theorem setNotif_gwCount (c : Nat) (b : Bool) : (s.setNotif c b).gwCount = s.gwCount := rfl
@[simp] theorem setNotif_notif (c : Nat) (b : Bool) : (s.setNotif c b).notif = s.notif.set c b := rfl
@[simp] theorem setNotif_nq (c : Nat) (b : Bool) : (s.setNotif c b).nq = s.nq := rfl
@[simp] theorem setNotif_sig (c : Nat) (b : Bool) : (s.setNotif c b).sig = s.sig := rfl
@[simp] theorem setNotif_rdata (c : Nat) (b : Bool) : (s.setNotif c b).rdata = s.rdata := rfl
@[simp] theorem setNotif_todo (c : Nat) (b : Bool) : (s.setNotif c b).todo = s.todo := rfl
@[simp] theorem setNotif_seq (c : Nat) (b : Bool) : (s.setNotif c b).seq = s.seq := rfl

@[simp] theorem setNq_cfg (c : Nat) (l : List Bool) : (s.setNq c l).cfg = s.cfg := rfl
@[simp] theorem setNq_prio (c : Nat) (l : List Bool) : (s.setNq c l).prio = s.prio := rfl
@[simp] theorem setNq_ip (c : Nat) (l : List Bool) : (s.setNq c l).ip = s.ip := rfl
@[simp] theorem setNq_ie (c : Nat) (l : List Bool) : (s.setNq c l).ie = s.ie := rfl
@[simp] theorem setNq_thr (c : Nat) (l : List Bool) : (s.setNq c l).thr = s.thr := rfl
@[simp] theorem setNq_gwBusy (c : Nat) (l : List Bool) : (s.setNq c l).gwBusy = s.gwBusy := rfl
@[simp] theorem setNq_gwCount (c : Nat) (l : List Bool) : (s.setNq c l).gwCount = s.gwCount := rfl
@[simp] theorem setNq_notif (c : Nat) (l : List Bool) : (s.setNq c l).notif = s.notif := rfl
@[simp] theorem setNq_nq (c : Nat) (l : List Bool) : (s.setNq c l).nq = s.nq.set c l := rfl
@[simp] theorem setNq_sig (c : Nat) (l : List Bool) : (s.setNq c l).sig = s.sig := rfl
@[simp] theorem setNq_rdata (c : Nat) (l : List Bool) : (s.setNq c l).rdata = s.rdata := rfl
@[simp] theorem setNq_todo (c : Nat) (l : List Bool) : (s.setNq c l).todo = s.todo := rfl
@[simp] theorem setNq_seq (c : Nat) (l : List Bool) : (s.setNq c l).seq = s.seq := rfl

@[simp] theorem setTodo_cfg (l : List Event) : (s.setTodo l).cfg = s.cfg := rfl
@[simp] theorem setTodo_prio (l : List Event) : (s.setTodo l).prio = s.prio := rfl
@[simp] theorem setTodo_ip (l : List Event) : (s.setTodo l).ip = s.ip := rfl
@[simp] theorem setTodo_ie (l : List Event) : (s.setTodo l).ie = s.ie := rfl
@[simp] theorem setTodo_thr (l : List Event) : (s.setTodo l).thr = s.thr := rfl
@[simp] theorem setTodo_gwBusy (l : List Event) : (s.setTodo l).gwBusy = s.gwBusy := rfl
@[simp] theorem setTodo_gwCount (l : List Event) : (s.setTodo l).gwCount = s.gwCount := rfl
@[simp] theorem setTodo_notif (l : List Event) : (s.setTodo l).notif = s.notif := rfl
@[simp] theorem setTodo_nq (l : List Event) : (s.setTodo l).nq = s.nq := rfl
@[simp] theorem setTodo_sig (l : List Event) : (s.setTodo l).sig = s.sig := rfl
@[simp] theorem setTodo_rdata (l : List Event) : (s.setTodo l).rdata = s.rdata := rfl
@[simp] theorem setTodo_todo (l : List Event) : (s.setTodo l).todo = l := rfl
@[simp] theorem setTodo_seq (l : List Event) : (s.setTodo l).seq = s.seq := rfl

@[simp] theorem nextChoice_cfg : s.nextChoice.cfg = s.cfg := rfl
@[simp] theorem nextChoice_prio : s.nextChoice.prio = s.prio := rfl
@[simp] theorem nextChoice_ip : s.nextChoice.ip = s.ip := rfl
@[simp] theorem nextChoice_ie : s.nextChoice.ie = s.ie := rfl
@[simp] theorem nextChoice_thr : s.nextChoice.thr = s.thr := rfl
@[simp] theorem nextChoice_gwBusy : s.nextChoice.gwBusy = s.gwBusy := rfl
@[simp] theorem nextChoice_gwCount : s.nextChoice.gwCount = s.gwCount := rfl
@[simp] theorem nextChoice_notif : s.nextChoice.notif = s.notif := rfl
@[simp] theorem nextChoice_nq : s.nextChoice.nq = s.nq := rfl
@[simp] theorem nextChoice_sig : s.nextChoice.sig = s.sig := rfl
@[simp] theorem nextChoice_rdata : s.nextChoice.rdata = s.rdata := rfl
@[simp] theorem nextChoice_todo : s.nextChoice.todo = s.todo := rfl
@[simp] theorem nextChoice_seq : s.nextChoice.seq = s.seq + 1 := rfl

@[simp] theorem respond_cfg (v : Word) : (s.respond v).cfg = s.cfg := rfl
@[simp] theorem respond_prio (v : Word) : (s.respond v).prio = s.prio := rfl
@[simp] theorem respond_ip (v : Word) : (s.respond v).ip = s.ip := rfl
@[simp] theorem respond_ie (v : Word) : (s.respond v).ie = s.ie := rfl
@[simp] theorem respond_thr (v : Word) : (s.respond v).thr = s.thr := rfl
@[simp] theorem respond_gwBusy (v : Word) : (s.respond v).gwBusy = s.gwBusy := rfl
@[simp] theorem respond_gwCount (v : Word) : (s.respond v).gwCount = s.gwCount := rfl
@[simp] theorem respond_notif (v : Word) : (s.respond v).notif = s.notif := rfl
@[simp] theorem respond_nq (v : Word) : (s.respond v).nq = s.nq := rfl
@[simp] theorem respond_sig (v : Word) : (s.respond v).sig = s.sig := rfl
@[simp] theorem respond_rdata (v : Word) : (s.respond v).rdata = some v := rfl
@[simp] theorem respond_todo (v : Word) : (s.respond v).todo = s.todo := rfl
@[simp] theorem respond_seq (v : Word) : (s.respond v).seq = s.seq := rfl

end State

end Sys2Proof.Machine
end

