-- ==== Sys2Proof/Laws/Table.lean ====
section
/-! SUPPORT. The laws of tables: read after write, the canonical form kept, equal tables are equal data. -/

namespace Sys2Proof

variable {α : Type}

theorem findEntry_dropEntry (i j : Nat) (d : α) (l : List (Nat × α)) :
    findEntry j d (dropEntry i l) = if j = i then d else findEntry j d l := by
  induction l with
  | nil => simp [dropEntry, findEntry]
  | cons e l ih =>
    obtain ⟨k, v⟩ := e
    have hc : dropEntry i ((k, v) :: l) =
        if k = i then dropEntry i l else (k, v) :: dropEntry i l := by
      by_cases hk : k = i <;> simp [dropEntry, hk]
    rw [hc]
    split_ifs with hk hj hj
    · rw [ih, if_pos hj]
    · rw [ih, if_neg hj, findEntry, if_neg (by omega)]
    · rw [findEntry, if_neg (by omega), ih, if_pos hj]
    · rw [findEntry, findEntry, ih, if_neg hj]

theorem findEntry_insertEntry (i j : Nat) (v d : α) (l : List (Nat × α)) :
    findEntry j d (insertEntry i v l) = if j = i then v else findEntry j d l := by
  induction l with
  | nil =>
    by_cases h : j = i
    · simp [insertEntry, findEntry, h]
    · have : ¬ i = j := by omega
      simp [insertEntry, findEntry, h, this]
  | cons e l ih =>
    obtain ⟨k, w⟩ := e
    rw [insertEntry]
    split_ifs with hle hj hj
    · rw [findEntry, if_pos hj.symm]
    · rw [findEntry, if_neg (by omega)]
    · rw [findEntry, if_neg (by simp at hle; omega), ih, if_pos hj]
    · rw [findEntry, findEntry, ih, if_neg hj]

/-- Read after write: the written index has the value written, every other index what it had. -/
@[simp] theorem Table.get_set [DecidableEq α] (t : Table α) (i j : Nat) (v : α) :
    (t.set i v).get j = if j = i then v else t.get j := by
  unfold Table.set Table.get
  by_cases hv : v = t.dflt
  · by_cases h : j = i <;> simp [hv, h, findEntry_dropEntry]
  · by_cases h : j = i <;> simp [hv, h, findEntry_dropEntry, findEntry_insertEntry]

@[simp] theorem Table.set_dflt [DecidableEq α] (t : Table α) (i : Nat) (v : α) :
    (t.set i v).dflt = t.dflt := rfl

@[simp] theorem Table.get_const (d : α) (i : Nat) : (Table.mk d []).get i = d := rfl

/-- The list's indices are all above `i`. -/
theorem risingAbove_iff (i : Nat) (l : List (Nat × α)) :
    risingAbove i l = true ↔ rising l = true ∧ ∀ e ∈ l, i < e.1 := by
  induction l generalizing i with
  | nil => simp [risingAbove, rising]
  | cons e l ih =>
    simp only [risingAbove, rising, Bool.and_eq_true, decide_eq_true_eq, List.mem_cons,
      forall_eq_or_imp]
    constructor
    · rintro ⟨h, hl⟩
      exact ⟨hl, h, fun x hx => lt_trans h (((ih e.1).mp hl).2 x hx)⟩
    · rintro ⟨hl, h, -⟩
      exact ⟨h, hl⟩

theorem rising_cons (e : Nat × α) (l : List (Nat × α)) :
    rising (e :: l) = true ↔ rising l = true ∧ ∀ x ∈ l, e.1 < x.1 := by
  simpa [rising] using risingAbove_iff e.1 l

theorem rising_dropEntry (i : Nat) (l : List (Nat × α)) (h : rising l = true) :
    rising (dropEntry i l) = true := by
  induction l with
  | nil => exact h
  | cons e l ih =>
    rw [rising_cons] at h
    by_cases he : e.1 = i
    · simpa [dropEntry, he] using ih h.1
    · have : dropEntry i (e :: l) = e :: dropEntry i l := by simp [dropEntry, he]
      rw [this, rising_cons]
      exact ⟨ih h.1, fun x hx => h.2 x (List.mem_filter.mp hx).1⟩

theorem mem_insertEntry (i : Nat) (v : α) (l : List (Nat × α)) (x : Nat × α) :
    x ∈ insertEntry i v l ↔ x = (i, v) ∨ x ∈ l := by
  induction l with
  | nil => simp [insertEntry]
  | cons e l ih =>
    by_cases h : i ≤ e.1
    · simp [insertEntry, h]
    · simp only [insertEntry, h, if_false, List.mem_cons, ih]
      tauto

theorem rising_insertEntry (i : Nat) (v : α) (l : List (Nat × α)) (h : rising l = true)
    (hi : ∀ e ∈ l, e.1 ≠ i) : rising (insertEntry i v l) = true := by
  induction l with
  | nil => rfl
  | cons e l ih =>
    have hh := h
    rw [rising_cons] at h
    have he : e.1 ≠ i := hi e (by simp)
    by_cases hle : i ≤ e.1
    · simp only [insertEntry, hle, if_true]
      rw [rising_cons]
      refine ⟨hh, fun x hx => ?_⟩
      rcases List.mem_cons.mp hx with rfl | hx
      · show i < _; omega
      · have := h.2 x hx
        show i < _; omega
    · simp only [insertEntry, hle, if_false]
      rw [rising_cons]
      refine ⟨ih h.1 (fun x hx => hi x (by simp [hx])), fun x hx => ?_⟩
      rcases (mem_insertEntry i v l x).mp hx with rfl | hx
      · show e.1 < i; omega
      · exact h.2 x hx

/-- Every write keeps the canonical form. -/
theorem Table.wf_set [DecidableEq α] (t : Table α) (i : Nat) (v : α) (h : t.wf = true) :
    (t.set i v).wf = true := by
  simp only [Table.wf, Bool.and_eq_true, List.all_eq_true, decide_eq_true_eq] at h ⊢
  have hd := rising_dropEntry i t.exc h.1
  have hm : ∀ e ∈ dropEntry i t.exc, e ∈ t.exc ∧ e.1 ≠ i := fun e he => by
    simpa [dropEntry] using he
  unfold Table.set
  by_cases hv : v = t.dflt
  · simp only [hv, if_true]
    exact ⟨hd, fun e he => h.2 e (hm e he).1⟩
  · simp only [hv, if_false]
    refine ⟨rising_insertEntry i v _ hd fun e he => (hm e he).2, fun e he => ?_⟩
    rcases (mem_insertEntry i v _ e).mp he with rfl | he
    · exact hv
    · exact h.2 e (hm e he).1

theorem Table.wf_const [DecidableEq α] (d : α) : (Table.mk d []).wf = true := rfl

theorem findEntry_absent (i : Nat) (d : α) (l : List (Nat × α)) (h : ∀ e ∈ l, i < e.1) :
    findEntry i d l = d := by
  induction l with
  | nil => rfl
  | cons e l ih =>
    have : e.1 ≠ i := by have := h e (by simp); omega
    obtain ⟨k, v⟩ := e
    simp_all [findEntry]

/-- Canonical lists that read the same are the same. -/
theorem entries_ext (d : α) (l m : List (Nat × α)) (hl : rising l = true) (hm : rising m = true)
    (dl : ∀ e ∈ l, e.2 ≠ d) (dm : ∀ e ∈ m, e.2 ≠ d)
    (h : ∀ i, findEntry i d l = findEntry i d m) : l = m := by
  induction l generalizing m with
  | nil =>
    cases m with
    | nil => rfl
    | cons e m =>
      have := h e.1
      obtain ⟨k, v⟩ := e
      simp only [findEntry, if_true] at this
      exact absurd this.symm (dm (k, v) (by simp))
  | cons e l ih =>
    cases m with
    | nil =>
      have := h e.1
      obtain ⟨k, v⟩ := e
      simp only [findEntry, if_true] at this
      exact absurd this (dl (k, v) (by simp))
    | cons e' m =>
      obtain ⟨k, v⟩ := e
      obtain ⟨k', v'⟩ := e'
      rw [rising_cons] at hl hm
      have hk : k = k' := by
        rcases Nat.lt_trichotomy k k' with hlt | heq | hgt
        · have h1 := h k
          rw [findEntry_absent k d ((k', v') :: m)] at h1
          · simp only [findEntry, if_true] at h1
            exact absurd h1 (dl (k, v) (by simp))
          · intro x hx
            rcases List.mem_cons.mp hx with rfl | hx
            · exact hlt
            · exact lt_trans hlt (hm.2 x hx)
        · exact heq
        · have h1 := h k'
          rw [findEntry_absent k' d ((k, v) :: l)] at h1
          · simp only [findEntry, if_true] at h1
            exact absurd h1.symm (dm (k', v') (by simp))
          · intro x hx
            rcases List.mem_cons.mp hx with rfl | hx
            · exact hgt
            · exact lt_trans hgt (hl.2 x hx)
      subst hk
      have hv : v = v' := by simpa [findEntry] using h k
      subst hv
      congr 1
      refine ih m hl.1 hm.1 (fun x hx => dl x (by simp [hx])) (fun x hx => dm x (by simp [hx])) ?_
      intro i
      by_cases hi : k = i
      · subst hi
        rw [findEntry_absent k d l hl.2, findEntry_absent k d m hm.2]
      · have := h i
        simpa [findEntry, hi] using this

/-- Canonical tables with one default that read the same are equal data. -/
theorem Table.ext_of_wf [DecidableEq α] (t u : Table α) (ht : t.wf = true) (hu : u.wf = true)
    (hd : t.dflt = u.dflt) (h : ∀ i, t.get i = u.get i) : t = u := by
  obtain ⟨d, l⟩ := t
  obtain ⟨d', m⟩ := u
  simp only at hd
  subst hd
  simp only [Table.wf, Bool.and_eq_true, List.all_eq_true, decide_eq_true_eq] at ht hu
  rw [entries_ext d l m ht.1 hu.1 ht.2 hu.2 h]

end Sys2Proof
end

