-- ==== Sys2Proof/Laws/Banks.lean ====
section
/-! SUPPORT. Each bank, read through its accessor, after each update of Machine/Ops.lean. -/

namespace Sys2Proof.Machine

namespace State

variable (s : State)

@[simp] theorem setPrio_hasSource (n : Nat) (v : Word) (m : Nat) :
    (s.setPrio n v).hasSource m = s.hasSource m := rfl
@[simp] theorem setPrio_hasContext (n : Nat) (v : Word) (d : Nat) :
    (s.setPrio n v).hasContext d = s.hasContext d := rfl
@[simp] theorem setPrio_ipAt (n : Nat) (v : Word) (m : Nat) :
    (s.setPrio n v).ipAt m = s.ipAt m := rfl
@[simp] theorem setPrio_ieAt (n : Nat) (v : Word) (d m : Nat) :
    (s.setPrio n v).ieAt d m = s.ieAt d m := rfl
@[simp] theorem setPrio_thrAt (n : Nat) (v : Word) (d : Nat) :
    (s.setPrio n v).thrAt d = s.thrAt d := rfl
@[simp] theorem setPrio_busyAt (n : Nat) (v : Word) (m : Nat) :
    (s.setPrio n v).busyAt m = s.busyAt m := rfl
@[simp] theorem setPrio_kindOf (n : Nat) (v : Word) (m : Nat) :
    (s.setPrio n v).kindOf m = s.kindOf m := rfl
@[simp] theorem setPrio_counts (n : Nat) (v : Word) (m : Nat) :
    (s.setPrio n v).counts m = s.counts m := rfl
@[simp] theorem setPrio_countAt (n : Nat) (v : Word) (m : Nat) :
    (s.setPrio n v).countAt m = s.countAt m := rfl
@[simp] theorem setPrio_sigAt (n : Nat) (v : Word) (m : Nat) :
    (s.setPrio n v).sigAt m = s.sigAt m := rfl
@[simp] theorem setPrio_notifAt (n : Nat) (v : Word) (d : Nat) :
    (s.setPrio n v).notifAt d = s.notifAt d := rfl
@[simp] theorem setPrio_nqAt (n : Nat) (v : Word) (d : Nat) :
    (s.setPrio n v).nqAt d = s.nqAt d := rfl
@[simp] theorem setPrio_hard0 (n : Nat) (v : Word) (d m : Nat) :
    (s.setPrio n v).hard0 d m = s.hard0 d m := rfl
@[simp] theorem setPrio_hard1 (n : Nat) (v : Word) (d m : Nat) :
    (s.setPrio n v).hard1 d m = s.hard1 d m := rfl
@[simp] theorem setPrio_ieWritable (n : Nat) (v : Word) (d m : Nat) :
    (s.setPrio n v).ieWritable d m = s.ieWritable d m := rfl

@[simp] theorem setIp_hasSource (n : Nat) (b : Bool) (m : Nat) :
    (s.setIp n b).hasSource m = s.hasSource m := rfl
@[simp] theorem setIp_hasContext (n : Nat) (b : Bool) (d : Nat) :
    (s.setIp n b).hasContext d = s.hasContext d := rfl
@[simp] theorem setIp_prioAt (n : Nat) (b : Bool) (m : Nat) :
    (s.setIp n b).prioAt m = s.prioAt m := rfl
@[simp] theorem setIp_ieAt (n : Nat) (b : Bool) (d m : Nat) :
    (s.setIp n b).ieAt d m = s.ieAt d m := rfl
@[simp] theorem setIp_thrAt (n : Nat) (b : Bool) (d : Nat) :
    (s.setIp n b).thrAt d = s.thrAt d := rfl
@[simp] theorem setIp_busyAt (n : Nat) (b : Bool) (m : Nat) :
    (s.setIp n b).busyAt m = s.busyAt m := rfl
@[simp] theorem setIp_kindOf (n : Nat) (b : Bool) (m : Nat) :
    (s.setIp n b).kindOf m = s.kindOf m := rfl
@[simp] theorem setIp_counts (n : Nat) (b : Bool) (m : Nat) :
    (s.setIp n b).counts m = s.counts m := rfl
@[simp] theorem setIp_countAt (n : Nat) (b : Bool) (m : Nat) :
    (s.setIp n b).countAt m = s.countAt m := rfl
@[simp] theorem setIp_sigAt (n : Nat) (b : Bool) (m : Nat) :
    (s.setIp n b).sigAt m = s.sigAt m := rfl
@[simp] theorem setIp_notifAt (n : Nat) (b : Bool) (d : Nat) :
    (s.setIp n b).notifAt d = s.notifAt d := rfl
@[simp] theorem setIp_nqAt (n : Nat) (b : Bool) (d : Nat) : (s.setIp n b).nqAt d = s.nqAt d := rfl
@[simp] theorem setIp_hard0 (n : Nat) (b : Bool) (d m : Nat) :
    (s.setIp n b).hard0 d m = s.hard0 d m := rfl
@[simp] theorem setIp_hard1 (n : Nat) (b : Bool) (d m : Nat) :
    (s.setIp n b).hard1 d m = s.hard1 d m := rfl
@[simp] theorem setIp_ieWritable (n : Nat) (b : Bool) (d m : Nat) :
    (s.setIp n b).ieWritable d m = s.ieWritable d m := rfl

@[simp] theorem setIeRow_hasSource (c : Nat) (row : Table Bool) (m : Nat) :
    (s.setIeRow c row).hasSource m = s.hasSource m := rfl
@[simp] theorem setIeRow_hasContext (c : Nat) (row : Table Bool) (d : Nat) :
    (s.setIeRow c row).hasContext d = s.hasContext d := rfl
@[simp] theorem setIeRow_prioAt (c : Nat) (row : Table Bool) (m : Nat) :
    (s.setIeRow c row).prioAt m = s.prioAt m := rfl
@[simp] theorem setIeRow_ipAt (c : Nat) (row : Table Bool) (m : Nat) :
    (s.setIeRow c row).ipAt m = s.ipAt m := rfl
@[simp] theorem setIeRow_thrAt (c : Nat) (row : Table Bool) (d : Nat) :
    (s.setIeRow c row).thrAt d = s.thrAt d := rfl
@[simp] theorem setIeRow_busyAt (c : Nat) (row : Table Bool) (m : Nat) :
    (s.setIeRow c row).busyAt m = s.busyAt m := rfl
@[simp] theorem setIeRow_kindOf (c : Nat) (row : Table Bool) (m : Nat) :
    (s.setIeRow c row).kindOf m = s.kindOf m := rfl
@[simp] theorem setIeRow_counts (c : Nat) (row : Table Bool) (m : Nat) :
    (s.setIeRow c row).counts m = s.counts m := rfl
@[simp] theorem setIeRow_countAt (c : Nat) (row : Table Bool) (m : Nat) :
    (s.setIeRow c row).countAt m = s.countAt m := rfl
@[simp] theorem setIeRow_sigAt (c : Nat) (row : Table Bool) (m : Nat) :
    (s.setIeRow c row).sigAt m = s.sigAt m := rfl
@[simp] theorem setIeRow_notifAt (c : Nat) (row : Table Bool) (d : Nat) :
    (s.setIeRow c row).notifAt d = s.notifAt d := rfl
@[simp] theorem setIeRow_nqAt (c : Nat) (row : Table Bool) (d : Nat) :
    (s.setIeRow c row).nqAt d = s.nqAt d := rfl
@[simp] theorem setIeRow_hard0 (c : Nat) (row : Table Bool) (d m : Nat) :
    (s.setIeRow c row).hard0 d m = s.hard0 d m := rfl
@[simp] theorem setIeRow_hard1 (c : Nat) (row : Table Bool) (d m : Nat) :
    (s.setIeRow c row).hard1 d m = s.hard1 d m := rfl
@[simp] theorem setIeRow_ieWritable (c : Nat) (row : Table Bool) (d m : Nat) :
    (s.setIeRow c row).ieWritable d m = s.ieWritable d m := rfl

@[simp] theorem setThr_hasSource (c : Nat) (v : Word) (m : Nat) :
    (s.setThr c v).hasSource m = s.hasSource m := rfl
@[simp] theorem setThr_hasContext (c : Nat) (v : Word) (d : Nat) :
    (s.setThr c v).hasContext d = s.hasContext d := rfl
@[simp] theorem setThr_prioAt (c : Nat) (v : Word) (m : Nat) :
    (s.setThr c v).prioAt m = s.prioAt m := rfl
@[simp] theorem setThr_ipAt (c : Nat) (v : Word) (m : Nat) : (s.setThr c v).ipAt m = s.ipAt m := rfl
@[simp] theorem setThr_ieAt (c : Nat) (v : Word) (d m : Nat) :
    (s.setThr c v).ieAt d m = s.ieAt d m := rfl
@[simp] theorem setThr_busyAt (c : Nat) (v : Word) (m : Nat) :
    (s.setThr c v).busyAt m = s.busyAt m := rfl
@[simp] theorem setThr_kindOf (c : Nat) (v : Word) (m : Nat) :
    (s.setThr c v).kindOf m = s.kindOf m := rfl
@[simp] theorem setThr_counts (c : Nat) (v : Word) (m : Nat) :
    (s.setThr c v).counts m = s.counts m := rfl
@[simp] theorem setThr_countAt (c : Nat) (v : Word) (m : Nat) :
    (s.setThr c v).countAt m = s.countAt m := rfl
@[simp] theorem setThr_sigAt (c : Nat) (v : Word) (m : Nat) :
    (s.setThr c v).sigAt m = s.sigAt m := rfl
@[simp] theorem setThr_notifAt (c : Nat) (v : Word) (d : Nat) :
    (s.setThr c v).notifAt d = s.notifAt d := rfl
@[simp] theorem setThr_nqAt (c : Nat) (v : Word) (d : Nat) : (s.setThr c v).nqAt d = s.nqAt d := rfl
@[simp] theorem setThr_hard0 (c : Nat) (v : Word) (d m : Nat) :
    (s.setThr c v).hard0 d m = s.hard0 d m := rfl
@[simp] theorem setThr_hard1 (c : Nat) (v : Word) (d m : Nat) :
    (s.setThr c v).hard1 d m = s.hard1 d m := rfl
@[simp] theorem setThr_ieWritable (c : Nat) (v : Word) (d m : Nat) :
    (s.setThr c v).ieWritable d m = s.ieWritable d m := rfl

@[simp] theorem setBusy_hasSource (n : Nat) (b : Bool) (m : Nat) :
    (s.setBusy n b).hasSource m = s.hasSource m := rfl
@[simp] theorem setBusy_hasContext (n : Nat) (b : Bool) (d : Nat) :
    (s.setBusy n b).hasContext d = s.hasContext d := rfl
@[simp] theorem setBusy_prioAt (n : Nat) (b : Bool) (m : Nat) :
    (s.setBusy n b).prioAt m = s.prioAt m := rfl
@[simp] theorem setBusy_ipAt (n : Nat) (b : Bool) (m : Nat) :
    (s.setBusy n b).ipAt m = s.ipAt m := rfl
@[simp] theorem setBusy_ieAt (n : Nat) (b : Bool) (d m : Nat) :
    (s.setBusy n b).ieAt d m = s.ieAt d m := rfl
@[simp] theorem setBusy_thrAt (n : Nat) (b : Bool) (d : Nat) :
    (s.setBusy n b).thrAt d = s.thrAt d := rfl
@[simp] theorem setBusy_kindOf (n : Nat) (b : Bool) (m : Nat) :
    (s.setBusy n b).kindOf m = s.kindOf m := rfl
@[simp] theorem setBusy_counts (n : Nat) (b : Bool) (m : Nat) :
    (s.setBusy n b).counts m = s.counts m := rfl
@[simp] theorem setBusy_countAt (n : Nat) (b : Bool) (m : Nat) :
    (s.setBusy n b).countAt m = s.countAt m := rfl
@[simp] theorem setBusy_sigAt (n : Nat) (b : Bool) (m : Nat) :
    (s.setBusy n b).sigAt m = s.sigAt m := rfl
@[simp] theorem setBusy_notifAt (n : Nat) (b : Bool) (d : Nat) :
    (s.setBusy n b).notifAt d = s.notifAt d := rfl
@[simp] theorem setBusy_nqAt (n : Nat) (b : Bool) (d : Nat) :
    (s.setBusy n b).nqAt d = s.nqAt d := rfl
@[simp] theorem setBusy_hard0 (n : Nat) (b : Bool) (d m : Nat) :
    (s.setBusy n b).hard0 d m = s.hard0 d m := rfl
@[simp] theorem setBusy_hard1 (n : Nat) (b : Bool) (d m : Nat) :
    (s.setBusy n b).hard1 d m = s.hard1 d m := rfl
@[simp] theorem setBusy_ieWritable (n : Nat) (b : Bool) (d m : Nat) :
    (s.setBusy n b).ieWritable d m = s.ieWritable d m := rfl
@[simp] theorem setBusy_activeFor (n : Nat) (b : Bool) (d m : Nat) :
    (s.setBusy n b).activeFor d m = s.activeFor d m := rfl
@[simp] theorem setBusy_eip (n : Nat) (b : Bool) (d : Nat) : (s.setBusy n b).eip d = s.eip d := rfl

@[simp] theorem setCount_hasSource (n k : Nat) (m : Nat) :
    (s.setCount n k).hasSource m = s.hasSource m := rfl
@[simp] theorem setCount_hasContext (n k : Nat) (d : Nat) :
    (s.setCount n k).hasContext d = s.hasContext d := rfl
@[simp] theorem setCount_prioAt (n k : Nat) (m : Nat) :
    (s.setCount n k).prioAt m = s.prioAt m := rfl
@[simp] theorem setCount_ipAt (n k : Nat) (m : Nat) : (s.setCount n k).ipAt m = s.ipAt m := rfl
@[simp] theorem setCount_ieAt (n k : Nat) (d m : Nat) :
    (s.setCount n k).ieAt d m = s.ieAt d m := rfl
@[simp] theorem setCount_thrAt (n k : Nat) (d : Nat) : (s.setCount n k).thrAt d = s.thrAt d := rfl
@[simp] theorem setCount_busyAt (n k : Nat) (m : Nat) :
    (s.setCount n k).busyAt m = s.busyAt m := rfl
@[simp] theorem setCount_kindOf (n k : Nat) (m : Nat) :
    (s.setCount n k).kindOf m = s.kindOf m := rfl
@[simp] theorem setCount_counts (n k : Nat) (m : Nat) :
    (s.setCount n k).counts m = s.counts m := rfl
@[simp] theorem setCount_sigAt (n k : Nat) (m : Nat) : (s.setCount n k).sigAt m = s.sigAt m := rfl
@[simp] theorem setCount_notifAt (n k : Nat) (d : Nat) :
    (s.setCount n k).notifAt d = s.notifAt d := rfl
@[simp] theorem setCount_nqAt (n k : Nat) (d : Nat) : (s.setCount n k).nqAt d = s.nqAt d := rfl
@[simp] theorem setCount_hard0 (n k : Nat) (d m : Nat) :
    (s.setCount n k).hard0 d m = s.hard0 d m := rfl
@[simp] theorem setCount_hard1 (n k : Nat) (d m : Nat) :
    (s.setCount n k).hard1 d m = s.hard1 d m := rfl
@[simp] theorem setCount_ieWritable (n k : Nat) (d m : Nat) :
    (s.setCount n k).ieWritable d m = s.ieWritable d m := rfl
@[simp] theorem setCount_activeFor (n k : Nat) (d m : Nat) :
    (s.setCount n k).activeFor d m = s.activeFor d m := rfl
@[simp] theorem setCount_eip (n k : Nat) (d : Nat) : (s.setCount n k).eip d = s.eip d := rfl

@[simp] theorem setSig_hasSource (n : Nat) (l : Bool) (m : Nat) :
    (s.setSig n l).hasSource m = s.hasSource m := rfl
@[simp] theorem setSig_hasContext (n : Nat) (l : Bool) (d : Nat) :
    (s.setSig n l).hasContext d = s.hasContext d := rfl
@[simp] theorem setSig_prioAt (n : Nat) (l : Bool) (m : Nat) :
    (s.setSig n l).prioAt m = s.prioAt m := rfl
@[simp] theorem setSig_ipAt (n : Nat) (l : Bool) (m : Nat) : (s.setSig n l).ipAt m = s.ipAt m := rfl
@[simp] theorem setSig_ieAt (n : Nat) (l : Bool) (d m : Nat) :
    (s.setSig n l).ieAt d m = s.ieAt d m := rfl
@[simp] theorem setSig_thrAt (n : Nat) (l : Bool) (d : Nat) :
    (s.setSig n l).thrAt d = s.thrAt d := rfl
@[simp] theorem setSig_busyAt (n : Nat) (l : Bool) (m : Nat) :
    (s.setSig n l).busyAt m = s.busyAt m := rfl
@[simp] theorem setSig_kindOf (n : Nat) (l : Bool) (m : Nat) :
    (s.setSig n l).kindOf m = s.kindOf m := rfl
@[simp] theorem setSig_counts (n : Nat) (l : Bool) (m : Nat) :
    (s.setSig n l).counts m = s.counts m := rfl
@[simp] theorem setSig_countAt (n : Nat) (l : Bool) (m : Nat) :
    (s.setSig n l).countAt m = s.countAt m := rfl
@[simp] theorem setSig_notifAt (n : Nat) (l : Bool) (d : Nat) :
    (s.setSig n l).notifAt d = s.notifAt d := rfl
@[simp] theorem setSig_nqAt (n : Nat) (l : Bool) (d : Nat) : (s.setSig n l).nqAt d = s.nqAt d := rfl
@[simp] theorem setSig_hard0 (n : Nat) (l : Bool) (d m : Nat) :
    (s.setSig n l).hard0 d m = s.hard0 d m := rfl
@[simp] theorem setSig_hard1 (n : Nat) (l : Bool) (d m : Nat) :
    (s.setSig n l).hard1 d m = s.hard1 d m := rfl
@[simp] theorem setSig_ieWritable (n : Nat) (l : Bool) (d m : Nat) :
    (s.setSig n l).ieWritable d m = s.ieWritable d m := rfl
@[simp] theorem setSig_activeFor (n : Nat) (l : Bool) (d m : Nat) :
    (s.setSig n l).activeFor d m = s.activeFor d m := rfl
@[simp] theorem setSig_eip (n : Nat) (l : Bool) (d : Nat) : (s.setSig n l).eip d = s.eip d := rfl

@[simp] theorem setNotif_hasSource (c : Nat) (b : Bool) (m : Nat) :
    (s.setNotif c b).hasSource m = s.hasSource m := rfl
@[simp] theorem setNotif_hasContext (c : Nat) (b : Bool) (d : Nat) :
    (s.setNotif c b).hasContext d = s.hasContext d := rfl
@[simp] theorem setNotif_prioAt (c : Nat) (b : Bool) (m : Nat) :
    (s.setNotif c b).prioAt m = s.prioAt m := rfl
@[simp] theorem setNotif_ipAt (c : Nat) (b : Bool) (m : Nat) :
    (s.setNotif c b).ipAt m = s.ipAt m := rfl
@[simp] theorem setNotif_ieAt (c : Nat) (b : Bool) (d m : Nat) :
    (s.setNotif c b).ieAt d m = s.ieAt d m := rfl
@[simp] theorem setNotif_thrAt (c : Nat) (b : Bool) (d : Nat) :
    (s.setNotif c b).thrAt d = s.thrAt d := rfl
@[simp] theorem setNotif_busyAt (c : Nat) (b : Bool) (m : Nat) :
    (s.setNotif c b).busyAt m = s.busyAt m := rfl
@[simp] theorem setNotif_kindOf (c : Nat) (b : Bool) (m : Nat) :
    (s.setNotif c b).kindOf m = s.kindOf m := rfl
@[simp] theorem setNotif_counts (c : Nat) (b : Bool) (m : Nat) :
    (s.setNotif c b).counts m = s.counts m := rfl
@[simp] theorem setNotif_countAt (c : Nat) (b : Bool) (m : Nat) :
    (s.setNotif c b).countAt m = s.countAt m := rfl
@[simp] theorem setNotif_sigAt (c : Nat) (b : Bool) (m : Nat) :
    (s.setNotif c b).sigAt m = s.sigAt m := rfl
@[simp] theorem setNotif_nqAt (c : Nat) (b : Bool) (d : Nat) :
    (s.setNotif c b).nqAt d = s.nqAt d := rfl
@[simp] theorem setNotif_hard0 (c : Nat) (b : Bool) (d m : Nat) :
    (s.setNotif c b).hard0 d m = s.hard0 d m := rfl
@[simp] theorem setNotif_hard1 (c : Nat) (b : Bool) (d m : Nat) :
    (s.setNotif c b).hard1 d m = s.hard1 d m := rfl
@[simp] theorem setNotif_ieWritable (c : Nat) (b : Bool) (d m : Nat) :
    (s.setNotif c b).ieWritable d m = s.ieWritable d m := rfl
@[simp] theorem setNotif_activeFor (c : Nat) (b : Bool) (d m : Nat) :
    (s.setNotif c b).activeFor d m = s.activeFor d m := rfl
@[simp] theorem setNotif_eip (c : Nat) (b : Bool) (d : Nat) :
    (s.setNotif c b).eip d = s.eip d := rfl

@[simp] theorem setNq_hasSource (c : Nat) (l : List Bool) (m : Nat) :
    (s.setNq c l).hasSource m = s.hasSource m := rfl
@[simp] theorem setNq_hasContext (c : Nat) (l : List Bool) (d : Nat) :
    (s.setNq c l).hasContext d = s.hasContext d := rfl
@[simp] theorem setNq_prioAt (c : Nat) (l : List Bool) (m : Nat) :
    (s.setNq c l).prioAt m = s.prioAt m := rfl
@[simp] theorem setNq_ipAt (c : Nat) (l : List Bool) (m : Nat) :
    (s.setNq c l).ipAt m = s.ipAt m := rfl
@[simp] theorem setNq_ieAt (c : Nat) (l : List Bool) (d m : Nat) :
    (s.setNq c l).ieAt d m = s.ieAt d m := rfl
@[simp] theorem setNq_thrAt (c : Nat) (l : List Bool) (d : Nat) :
    (s.setNq c l).thrAt d = s.thrAt d := rfl
@[simp] theorem setNq_busyAt (c : Nat) (l : List Bool) (m : Nat) :
    (s.setNq c l).busyAt m = s.busyAt m := rfl
@[simp] theorem setNq_kindOf (c : Nat) (l : List Bool) (m : Nat) :
    (s.setNq c l).kindOf m = s.kindOf m := rfl
@[simp] theorem setNq_counts (c : Nat) (l : List Bool) (m : Nat) :
    (s.setNq c l).counts m = s.counts m := rfl
@[simp] theorem setNq_countAt (c : Nat) (l : List Bool) (m : Nat) :
    (s.setNq c l).countAt m = s.countAt m := rfl
@[simp] theorem setNq_sigAt (c : Nat) (l : List Bool) (m : Nat) :
    (s.setNq c l).sigAt m = s.sigAt m := rfl
@[simp] theorem setNq_notifAt (c : Nat) (l : List Bool) (d : Nat) :
    (s.setNq c l).notifAt d = s.notifAt d := rfl
@[simp] theorem setNq_hard0 (c : Nat) (l : List Bool) (d m : Nat) :
    (s.setNq c l).hard0 d m = s.hard0 d m := rfl
@[simp] theorem setNq_hard1 (c : Nat) (l : List Bool) (d m : Nat) :
    (s.setNq c l).hard1 d m = s.hard1 d m := rfl
@[simp] theorem setNq_ieWritable (c : Nat) (l : List Bool) (d m : Nat) :
    (s.setNq c l).ieWritable d m = s.ieWritable d m := rfl
@[simp] theorem setNq_activeFor (c : Nat) (l : List Bool) (d m : Nat) :
    (s.setNq c l).activeFor d m = s.activeFor d m := rfl
@[simp] theorem setNq_eip (c : Nat) (l : List Bool) (d : Nat) : (s.setNq c l).eip d = s.eip d := rfl

@[simp] theorem setTodo_hasSource (l : List Event) (m : Nat) :
    (s.setTodo l).hasSource m = s.hasSource m := rfl
@[simp] theorem setTodo_hasContext (l : List Event) (d : Nat) :
    (s.setTodo l).hasContext d = s.hasContext d := rfl
@[simp] theorem setTodo_prioAt (l : List Event) (m : Nat) :
    (s.setTodo l).prioAt m = s.prioAt m := rfl
@[simp] theorem setTodo_ipAt (l : List Event) (m : Nat) : (s.setTodo l).ipAt m = s.ipAt m := rfl
@[simp] theorem setTodo_ieAt (l : List Event) (d m : Nat) :
    (s.setTodo l).ieAt d m = s.ieAt d m := rfl
@[simp] theorem setTodo_thrAt (l : List Event) (d : Nat) : (s.setTodo l).thrAt d = s.thrAt d := rfl
@[simp] theorem setTodo_busyAt (l : List Event) (m : Nat) :
    (s.setTodo l).busyAt m = s.busyAt m := rfl
@[simp] theorem setTodo_kindOf (l : List Event) (m : Nat) :
    (s.setTodo l).kindOf m = s.kindOf m := rfl
@[simp] theorem setTodo_counts (l : List Event) (m : Nat) :
    (s.setTodo l).counts m = s.counts m := rfl
@[simp] theorem setTodo_countAt (l : List Event) (m : Nat) :
    (s.setTodo l).countAt m = s.countAt m := rfl
@[simp] theorem setTodo_sigAt (l : List Event) (m : Nat) : (s.setTodo l).sigAt m = s.sigAt m := rfl
@[simp] theorem setTodo_notifAt (l : List Event) (d : Nat) :
    (s.setTodo l).notifAt d = s.notifAt d := rfl
@[simp] theorem setTodo_nqAt (l : List Event) (d : Nat) : (s.setTodo l).nqAt d = s.nqAt d := rfl
@[simp] theorem setTodo_hard0 (l : List Event) (d m : Nat) :
    (s.setTodo l).hard0 d m = s.hard0 d m := rfl
@[simp] theorem setTodo_hard1 (l : List Event) (d m : Nat) :
    (s.setTodo l).hard1 d m = s.hard1 d m := rfl
@[simp] theorem setTodo_ieWritable (l : List Event) (d m : Nat) :
    (s.setTodo l).ieWritable d m = s.ieWritable d m := rfl
@[simp] theorem setTodo_activeFor (l : List Event) (d m : Nat) :
    (s.setTodo l).activeFor d m = s.activeFor d m := rfl
@[simp] theorem setTodo_eip (l : List Event) (d : Nat) : (s.setTodo l).eip d = s.eip d := rfl

@[simp] theorem nextChoice_hasSource (m : Nat) : s.nextChoice.hasSource m = s.hasSource m := rfl
@[simp] theorem nextChoice_hasContext (d : Nat) : s.nextChoice.hasContext d = s.hasContext d := rfl
@[simp] theorem nextChoice_prioAt (m : Nat) : s.nextChoice.prioAt m = s.prioAt m := rfl
@[simp] theorem nextChoice_ipAt (m : Nat) : s.nextChoice.ipAt m = s.ipAt m := rfl
@[simp] theorem nextChoice_ieAt (d m : Nat) : s.nextChoice.ieAt d m = s.ieAt d m := rfl
@[simp] theorem nextChoice_thrAt (d : Nat) : s.nextChoice.thrAt d = s.thrAt d := rfl
@[simp] theorem nextChoice_busyAt (m : Nat) : s.nextChoice.busyAt m = s.busyAt m := rfl
@[simp] theorem nextChoice_kindOf (m : Nat) : s.nextChoice.kindOf m = s.kindOf m := rfl
@[simp] theorem nextChoice_counts (m : Nat) : s.nextChoice.counts m = s.counts m := rfl
@[simp] theorem nextChoice_countAt (m : Nat) : s.nextChoice.countAt m = s.countAt m := rfl
@[simp] theorem nextChoice_sigAt (m : Nat) : s.nextChoice.sigAt m = s.sigAt m := rfl
@[simp] theorem nextChoice_notifAt (d : Nat) : s.nextChoice.notifAt d = s.notifAt d := rfl
@[simp] theorem nextChoice_nqAt (d : Nat) : s.nextChoice.nqAt d = s.nqAt d := rfl
@[simp] theorem nextChoice_hard0 (d m : Nat) : s.nextChoice.hard0 d m = s.hard0 d m := rfl
@[simp] theorem nextChoice_hard1 (d m : Nat) : s.nextChoice.hard1 d m = s.hard1 d m := rfl
@[simp] theorem nextChoice_ieWritable (d m : Nat) :
    s.nextChoice.ieWritable d m = s.ieWritable d m := rfl
@[simp] theorem nextChoice_activeFor (d m : Nat) :
    s.nextChoice.activeFor d m = s.activeFor d m := rfl
@[simp] theorem nextChoice_eip (d : Nat) : s.nextChoice.eip d = s.eip d := rfl

@[simp] theorem respond_hasSource (v : Word) (m : Nat) :
    (s.respond v).hasSource m = s.hasSource m := rfl
@[simp] theorem respond_hasContext (v : Word) (d : Nat) :
    (s.respond v).hasContext d = s.hasContext d := rfl
@[simp] theorem respond_prioAt (v : Word) (m : Nat) : (s.respond v).prioAt m = s.prioAt m := rfl
@[simp] theorem respond_ipAt (v : Word) (m : Nat) : (s.respond v).ipAt m = s.ipAt m := rfl
@[simp] theorem respond_ieAt (v : Word) (d m : Nat) : (s.respond v).ieAt d m = s.ieAt d m := rfl
@[simp] theorem respond_thrAt (v : Word) (d : Nat) : (s.respond v).thrAt d = s.thrAt d := rfl
@[simp] theorem respond_busyAt (v : Word) (m : Nat) : (s.respond v).busyAt m = s.busyAt m := rfl
@[simp] theorem respond_kindOf (v : Word) (m : Nat) : (s.respond v).kindOf m = s.kindOf m := rfl
@[simp] theorem respond_counts (v : Word) (m : Nat) : (s.respond v).counts m = s.counts m := rfl
@[simp] theorem respond_countAt (v : Word) (m : Nat) : (s.respond v).countAt m = s.countAt m := rfl
@[simp] theorem respond_sigAt (v : Word) (m : Nat) : (s.respond v).sigAt m = s.sigAt m := rfl
@[simp] theorem respond_notifAt (v : Word) (d : Nat) : (s.respond v).notifAt d = s.notifAt d := rfl
@[simp] theorem respond_nqAt (v : Word) (d : Nat) : (s.respond v).nqAt d = s.nqAt d := rfl
@[simp] theorem respond_hard0 (v : Word) (d m : Nat) : (s.respond v).hard0 d m = s.hard0 d m := rfl
@[simp] theorem respond_hard1 (v : Word) (d m : Nat) : (s.respond v).hard1 d m = s.hard1 d m := rfl
@[simp] theorem respond_ieWritable (v : Word) (d m : Nat) :
    (s.respond v).ieWritable d m = s.ieWritable d m := rfl
@[simp] theorem respond_activeFor (v : Word) (d m : Nat) :
    (s.respond v).activeFor d m = s.activeFor d m := rfl
@[simp] theorem respond_eip (v : Word) (d : Nat) : (s.respond v).eip d = s.eip d := rfl

/-! What an update does to its own bank. -/

theorem setPrio_prioAt (n : Nat) (v : Word) (m : Nat) :
    (s.setPrio n v).prioAt m = if m = n ∧ s.hasSource m = true then v else s.prioAt m := by
  by_cases h : m = n <;> cases hm : s.hasSource m <;> simp_all [prioAt]

theorem setIp_ipAt (n : Nat) (b : Bool) (m : Nat) :
    (s.setIp n b).ipAt m = if m = n then s.hasSource m && b else s.ipAt m := by
  by_cases h : m = n <;> simp [ipAt, h]

theorem setIeRow_ieAt (c : Nat) (row : Table Bool) (d m : Nat) :
    (s.setIeRow c row).ieAt d m =
      if d = c then s.hasContext d && (s.hasSource m && row.get m) else s.ieAt d m := by
  by_cases h : d = c <;> simp [ieAt, h]

theorem setThr_thrAt (c : Nat) (v : Word) (d : Nat) :
    (s.setThr c v).thrAt d = if d = c ∧ s.hasContext d = true then v else s.thrAt d := by
  by_cases h : d = c <;> cases hd : s.hasContext d <;> simp_all [thrAt]

theorem setBusy_busyAt (n : Nat) (b : Bool) (m : Nat) :
    (s.setBusy n b).busyAt m = if m = n then s.hasSource m && b else s.busyAt m := by
  by_cases h : m = n <;> simp [busyAt, h]

theorem setCount_countAt (n k m : Nat) :
    (s.setCount n k).countAt m = if m = n ∧ s.counts m = true then k else s.countAt m := by
  by_cases h : m = n <;> cases hm : s.counts m <;> simp_all [countAt]

theorem setSig_sigAt (n : Nat) (l : Bool) (m : Nat) :
    (s.setSig n l).sigAt m = if m = n then s.hasSource m && l else s.sigAt m := by
  by_cases h : m = n <;> simp [sigAt, h]

theorem setNotif_notifAt (c : Nat) (b : Bool) (d : Nat) :
    (s.setNotif c b).notifAt d = if d = c then s.hasContext d && b else s.notifAt d := by
  by_cases h : d = c <;> simp [notifAt, h]

theorem setNq_nqAt (c : Nat) (l : List Bool) (d : Nat) :
    (s.setNq c l).nqAt d = if d = c ∧ s.hasContext d = true then l else s.nqAt d := by
  by_cases h : d = c <;> cases hd : s.hasContext d <;> simp_all [nqAt]

end State

end Sys2Proof.Machine
end

