-- ==== Sys2Proof/Laws/Encoding.lean ====
section
/-! SUPPORT. The fields of an access word as arithmetic on its value (R81, R85 to R88). -/

namespace Sys2Proof

theorem offField_eq (a : AccessWord) : offField a = a.toNat % 2 ^ 26 := by
  simp [offField]

theorem ccField_eq (a : AccessWord) : ccField a = a.toNat / 128 % 2 ^ 19 := by
  simp [ccField, Nat.shiftRight_eq_div_pow]

theorem ppField_eq (a : AccessWord) : ppField a = a.toNat / 4096 % 2 ^ 14 := by
  simp [ppField, Nat.shiftRight_eq_div_pow]

theorem regField_eq (a : AccessWord) : regField a = a.toNat / 4 % 2 ^ 10 := by
  simp [regField, Nat.shiftRight_eq_div_pow]

theorem wordField_eq (a : AccessWord) : wordField a = a.toNat / 4 % 2 ^ 5 := by
  simp [wordField, Nat.shiftRight_eq_div_pow]

theorem lowField_eq (a : AccessWord) : lowField a = a.toNat % 4 := by
  simp [lowField]

theorem dirBit_eq (a : AccessWord) : dirBit a = decide (2 ^ 26 ≤ a.toNat) := by
  have h := a.isLt
  have hb : dirBit a = (a.toNat / 2 ^ 26 % 2 == 1) := by
    simp [dirBit, BitVec.getLsbD, Nat.testBit, Nat.shiftRight_eq_div_pow, bne]
    rcases Nat.mod_two_eq_zero_or_one (a.toNat / 67108864) with h | h <;> simp [h]
  rw [hb, Bool.eq_iff_iff]
  simp only [beq_iff_eq, decide_eq_true_eq]
  omega

/-- The value of an access word made of a direction and an offset of the region. -/
theorem accessWord_toNat (x : Access) (off : Nat) (h : off < 2 ^ 26) :
    (accessWord x off).toNat = (match x with | .read => 0 | .write _ => 2 ^ 26) + off := by
  have key : ∀ d : BitVec 1, (d ++ BitVec.ofNat 26 off).toNat = d.toNat * 2 ^ 26 + off := by
    intro d
    rw [BitVec.toNat_append, BitVec.toNat_ofNat, Nat.mod_eq_of_lt h,
      ← Nat.shiftLeft_add_eq_or_of_lt h, Nat.shiftLeft_eq]
  cases x with
  | read => exact key 0#1
  | write v => exact key 1#1

/-- An access word is its direction and its offset (R80). -/
theorem accessWord_ext (a b : AccessWord) (h : a.toNat = b.toNat) : a = b := BitVec.eq_of_toNat_eq h

/-- Every operation with its operands in range has an aligned offset inside the region. -/
theorem offsetOf_range (i : Instr) (h : i.wellFormed = true) :
    offsetOf i < 2 ^ 26 ∧ offsetOf i % 4 = 0 := by
  cases i <;>
    simp only [Instr.wellFormed, sourceOk, wordOk, contextOk, gap1Ok, gap2Ok, blockRegOk,
      Bool.and_eq_true, decide_eq_true_eq] at h <;>
    refine ⟨?_, ?_⟩ <;> simp only [offsetOf] <;> omega

end Sys2Proof
end

