-- ==== Sys2Proof/Laws/Flags.lean ====
section
/-! SUPPORT. External interrupt pending, and the changes of it a step queues. -/

namespace Sys2Proof.Machine

theorem anySource_iff (p : Nat → Bool) (k : Nat) :
    anySource p k = true ↔ ∃ n, 1 ≤ n ∧ n ≤ k ∧ p n = true := by
  induction k with
  | zero => simp [anySource]
  | succ k ih =>
    simp only [anySource, Bool.or_eq_true, ih]
    constructor
    · rintro (h | ⟨n, h1, h2, h3⟩)
      · exact ⟨k + 1, by omega, le_rfl, h⟩
      · exact ⟨n, h1, by omega, h3⟩
    · rintro ⟨n, h1, h2, h3⟩
      by_cases h : n = k + 1
      · exact .inl (h ▸ h3)
      · exact .inr ⟨n, h1, by omega, h3⟩

namespace State

variable (s t : State)

theorem activeFor_hasSource (c n : Nat) (h : s.activeFor c n = true) : s.hasSource n = true := by
  simp only [activeFor, ipAt, Bool.and_eq_true] at h
  exact h.1.1

/-- `eip(c)` is set exactly where some source is active for `c` (R180). -/
theorem eip_iff (c : Nat) : s.eip c = true ↔ ∃ n, s.activeFor c n = true := by
  rw [eip, anySource_iff]
  constructor
  · rintro ⟨n, _, _, h⟩
    exact ⟨n, h⟩
  · rintro ⟨n, h⟩
    have hs := s.activeFor_hasSource c n h
    simp only [hasSource, Bool.and_eq_true, decide_eq_true_eq] at hs
    exact ⟨n, hs.1, hs.2, h⟩

/-- A context the implementation lacks has no enabled source. -/
theorem eip_absent (c : Nat) (h : s.hasContext c = false) : s.eip c = false := by
  by_contra hc
  have hc : s.eip c = true := by simpa using hc
  obtain ⟨n, hn⟩ := (s.eip_iff c).mp hc
  simp [activeFor, ieAt, h] at hn

/-- `eip(c)` reads the active sources of `c` only. -/
theorem eip_congr (c : Nat) (h : ∀ n, t.activeFor c n = s.activeFor c n) : t.eip c = s.eip c := by
  rw [Bool.eq_iff_iff, eip_iff, eip_iff]
  simp only [h]

end State

theorem queueChanges_get (s t : State) (k c : Nat) :
    (queueChanges s t k).get c =
      if c < k ∧ t.eip c ≠ s.eip c then t.nq.get c ++ [t.eip c] else t.nq.get c := by
  induction k with
  | zero => simp [queueChanges]
  | succ k ih =>
    unfold queueChanges
    by_cases hc : c = k
    · subst hc
      by_cases he : t.eip c = s.eip c <;> simp [he, ih]
    · have : c < k + 1 ↔ c < k := by omega
      by_cases he : t.eip k = s.eip k <;> simp [he, ih, hc, this]

theorem queueChanges_wf (s t : State) (k : Nat) (h : t.nq.wf = true) :
    (queueChanges s t k).wf = true := by
  induction k with
  | zero => exact h
  | succ k ih =>
    unfold queueChanges
    split
    · exact ih
    · exact Table.wf_set _ _ _ ih

/-- A step that changes no `eip` queues nothing. -/
theorem noteEip_same (s t : State) (h : ∀ c, t.eip c = s.eip c) : noteEip s t = t := by
  have : ∀ k, queueChanges s t k = t.nq := fun k => by
    induction k with
    | zero => rfl
    | succ k ih => simp [queueChanges, h, ih]
  simp [noteEip, this]

section
variable (s t : State)

@[simp] theorem noteEip_cfg : (noteEip s t).cfg = t.cfg := rfl
@[simp] theorem noteEip_prio : (noteEip s t).prio = t.prio := rfl
@[simp] theorem noteEip_ip : (noteEip s t).ip = t.ip := rfl
@[simp] theorem noteEip_ie : (noteEip s t).ie = t.ie := rfl
@[simp] theorem noteEip_thr : (noteEip s t).thr = t.thr := rfl
@[simp] theorem noteEip_gwBusy : (noteEip s t).gwBusy = t.gwBusy := rfl
@[simp] theorem noteEip_gwCount : (noteEip s t).gwCount = t.gwCount := rfl
@[simp] theorem noteEip_notif : (noteEip s t).notif = t.notif := rfl
@[simp] theorem noteEip_sig : (noteEip s t).sig = t.sig := rfl
@[simp] theorem noteEip_rdata : (noteEip s t).rdata = t.rdata := rfl
@[simp] theorem noteEip_todo : (noteEip s t).todo = t.todo := rfl
@[simp] theorem noteEip_seq : (noteEip s t).seq = t.seq := rfl
@[simp] theorem noteEip_hasSource (n : Nat) : (noteEip s t).hasSource n = t.hasSource n := rfl
@[simp] theorem noteEip_hasContext (c : Nat) : (noteEip s t).hasContext c = t.hasContext c := rfl
@[simp] theorem noteEip_prioAt (n : Nat) : (noteEip s t).prioAt n = t.prioAt n := rfl
@[simp] theorem noteEip_ipAt (n : Nat) : (noteEip s t).ipAt n = t.ipAt n := rfl
@[simp] theorem noteEip_ieAt (c n : Nat) : (noteEip s t).ieAt c n = t.ieAt c n := rfl
@[simp] theorem noteEip_thrAt (c : Nat) : (noteEip s t).thrAt c = t.thrAt c := rfl
@[simp] theorem noteEip_busyAt (n : Nat) : (noteEip s t).busyAt n = t.busyAt n := rfl
@[simp] theorem noteEip_kindOf (n : Nat) : (noteEip s t).kindOf n = t.kindOf n := rfl
@[simp] theorem noteEip_counts (n : Nat) : (noteEip s t).counts n = t.counts n := rfl
@[simp] theorem noteEip_countAt (n : Nat) : (noteEip s t).countAt n = t.countAt n := rfl
@[simp] theorem noteEip_sigAt (n : Nat) : (noteEip s t).sigAt n = t.sigAt n := rfl
@[simp] theorem noteEip_notifAt (c : Nat) : (noteEip s t).notifAt c = t.notifAt c := rfl
@[simp] theorem noteEip_hard0 (c n : Nat) : (noteEip s t).hard0 c n = t.hard0 c n := rfl
@[simp] theorem noteEip_hard1 (c n : Nat) : (noteEip s t).hard1 c n = t.hard1 c n := rfl
@[simp] theorem noteEip_eip (c : Nat) : (noteEip s t).eip c = t.eip c := rfl

/-- The queue after a step: a change of `eip(c)` is appended, and nothing else (R182). -/
theorem noteEip_nqAt (c : Nat) :
    (noteEip s t).nqAt c =
      if t.hasContext c = true ∧ t.eip c ≠ s.eip c then t.nqAt c ++ [t.eip c] else t.nqAt c := by
  by_cases hc : t.hasContext c = true
  · have hlt : c < t.cfg.nctx := by simpa [State.hasContext] using hc
    by_cases he : t.eip c = s.eip c <;>
      simp [State.nqAt, hlt, he, noteEip, queueChanges_get, State.hasContext]
  · have hlt : ¬ c < t.cfg.nctx := by simpa [State.hasContext] using hc
    simp [State.nqAt, hlt, noteEip, State.hasContext]

end

end Sys2Proof.Machine
end

