-- ==== Sys2Proof/Laws/Operands.lean ====
section
/-! SUPPORT. What the operand forms compute: packed words, enable rows, WARL values. -/

namespace Sys2Proof.Machine

theorem getLsbD_gatherBits (f : Nat → Bool) (k b : Nat) (hk : k ≤ 32) :
    (gatherBits f k).getLsbD b = (decide (b < k) && f b) := by
  induction k with
  | zero => simp [gatherBits]
  | succ k ih =>
    have ih := ih (by omega)
    unfold gatherBits
    rcases Nat.lt_trichotomy b k with h | h | h
    · have h1 : b < k + 1 := by omega
      have h2 : ¬ k = b := by omega
      by_cases hf : f k <;> simp [hf, ih, h, h1, h2]
    · subst h
      have h1 : b < 32 := by omega
      have ih : (gatherBits f b)[b] = false := by simpa [h1] using ih
      by_cases hf : f b <;> simp [hf, ih, h1]
    · have h1 : ¬ b < k + 1 := by omega
      have h2 : ¬ k = b := by omega
      have h3 : ¬ b < k := by omega
      by_cases hf : f k <;> simp [hf, ih, h1, h2, h3]

/-- Bit `b` of a packed word is the bit packed there. -/
@[simp] theorem getLsbD_wordOfBits (f : Nat → Bool) (b : Nat) :
    (wordOfBits f).getLsbD b = (decide (b < 32) && f b) :=
  getLsbD_gatherBits f 32 b le_rfl

/-- A row after a write: the read-write bits of the word written take the data's bits. -/
theorem enableRow_get (s : State) (c w : Nat) (v : Word) (k m : Nat) :
    (s.enableRow c w v k).get m =
      if 32 * w ≤ m ∧ m < 32 * w + k ∧ s.ieWritable c m = true then v.getLsbD (m - 32 * w)
      else (s.ie.get c).get m := by
  induction k with
  | zero =>
    have : ¬ (32 * w ≤ m ∧ m < 32 * w + 0 ∧ s.ieWritable c m = true) := by omega
    rw [if_neg this]; rfl
  | succ k ih =>
    unfold State.enableRow
    by_cases hm : m = sourceOf w k
    · subst hm
      have e : sourceOf w k - 32 * w = k := by simp [sourceOf]
      by_cases hw : s.ieWritable c (sourceOf w k) = true
      · have h1 : 32 * w ≤ sourceOf w k ∧ sourceOf w k < 32 * w + (k + 1) ∧
            s.ieWritable c (sourceOf w k) = true := ⟨by simp [sourceOf], by simp [sourceOf], hw⟩
        rw [if_pos h1, if_pos hw, Table.get_set, if_pos rfl, e]
      · rw [if_neg hw, ih]
        simp [hw]
    · have hk : (32 * w ≤ m ∧ m < 32 * w + (k + 1) ∧ s.ieWritable c m = true) ↔
          (32 * w ≤ m ∧ m < 32 * w + k ∧ s.ieWritable c m = true) := by
        have : m ≠ 32 * w + k := hm
        constructor
        · rintro ⟨h1, h2, h3⟩; exact ⟨h1, by omega, h3⟩
        · rintro ⟨h1, h2, h3⟩; exact ⟨h1, by omega, h3⟩
      split_ifs with hw h2 h2 <;> simp_all

theorem enableRow_wf (s : State) (c w : Nat) (v : Word) (k : Nat) (h : (s.ie.get c).wf = true) :
    (s.enableRow c w v k).wf = true := by
  induction k with
  | zero => exact h
  | succ k ih =>
    unfold State.enableRow
    split
    · exact Table.wf_set _ _ _ ih
    · exact ih

/-- A written value is legal: outside the mask it has the fixed bits. -/
theorem warl_legal (mask fixed v : Word) (h : fixed &&& mask = 0) :
    warl mask fixed v &&& ~~~mask = fixed := by
  unfold warl
  ext i hi
  have hb : (fixed[i] && mask[i]) = false := by
    simpa [hi] using congrArg (fun x => x.getLsbD i) h
  cases hf : fixed[i] <;> cases hm : mask[i] <;> simp_all

/-- A legal value is stored as it is. -/
theorem warl_of_legal (mask fixed v : Word) (h : v &&& ~~~mask = fixed) :
    warl mask fixed v = v := by
  unfold warl
  subst h
  ext i hi
  cases hm : mask[i] <;> cases hv : v[i] <;> simp_all

end Sys2Proof.Machine
end

