-- ==== Sys2Proof/Laws/PerInstr.lean ====
section
/-! SUPPORT. Statements about every operation as syntax, one lemma for each constructor. -/

namespace Sys2Proof.Laws

/-- A well-formed operation stands at a multiple of 4 inside the 64 MiB region (R50, R80). -/
def AlignedOffset.Statement (i : Instr) : Prop :=
  i.wellFormed = true → offsetOf i < 0x4000000 ∧ offsetOf i % 4 = 0

theorem AlignedOffset.priorityRd (n : Nat) : AlignedOffset.Statement (.priorityRd n) :=
  offsetOf_range _
theorem AlignedOffset.priorityWr (n : Nat) (v : Word) : AlignedOffset.Statement (.priorityWr n v) :=
  offsetOf_range _
theorem AlignedOffset.pendingRd (w : Nat) : AlignedOffset.Statement (.pendingRd w) := offsetOf_range _
theorem AlignedOffset.pendingWr (w : Nat) (v : Word) : AlignedOffset.Statement (.pendingWr w v) :=
  offsetOf_range _
theorem AlignedOffset.enableRd (c w : Nat) : AlignedOffset.Statement (.enableRd c w) :=
  offsetOf_range _
theorem AlignedOffset.enableWr (c w : Nat) (v : Word) : AlignedOffset.Statement (.enableWr c w v) :=
  offsetOf_range _
theorem AlignedOffset.thresholdRd (c : Nat) : AlignedOffset.Statement (.thresholdRd c) :=
  offsetOf_range _
theorem AlignedOffset.thresholdWr (c : Nat) (v : Word) : AlignedOffset.Statement (.thresholdWr c v) :=
  offsetOf_range _
theorem AlignedOffset.claim (c : Nat) : AlignedOffset.Statement (.claim c) := offsetOf_range _
theorem AlignedOffset.complete (c : Nat) (v : Word) : AlignedOffset.Statement (.complete c v) :=
  offsetOf_range _
theorem AlignedOffset.reservedSrc0 (a : Access) : AlignedOffset.Statement (.reservedSrc0 a) :=
  offsetOf_range _
theorem AlignedOffset.reservedGap1 (cc w : Nat) (a : Access) :
    AlignedOffset.Statement (.reservedGap1 cc w a) := offsetOf_range _
theorem AlignedOffset.reservedGap2 (cc w : Nat) (a : Access) :
    AlignedOffset.Statement (.reservedGap2 cc w a) := offsetOf_range _
theorem AlignedOffset.reservedCtx (c r : Nat) (a : Access) :
    AlignedOffset.Statement (.reservedCtx c r a) := offsetOf_range _

end Sys2Proof.Laws
end

