-- ==== Sys2Proof/Laws/Step.lean ====
section
/-! SUPPORT. What a step can do, said once: the cases of each meaning, of each step of the PLIC's own and
of the environment, and of the machine's step. -/

namespace Sys2Proof.Machine

/-- What a meaning can answer, once: the next states of all fourteen. -/
theorem exec_cases (i : Instr) (s t : State) (h : exec i s = .next t) :
    t = s ∨ (∃ v, t = s.respond v) ∨
    (∃ n v, i = .priorityWr n v ∧ s.hasSource n = true ∧ t = s.setPrio n (s.legalPrio n v)) ∨
    (∃ c w v, i = .enableWr c w v ∧ s.hasContext c = true ∧
      t = s.setIeRow c (s.enableRow c w v 32)) ∨
    (∃ c v, i = .thresholdWr c v ∧ s.hasContext c = true ∧ t = s.setThr c (s.legalThr c v)) ∨
    (∃ c, i = .claim c ∧ s.hasContext c = true ∧ s.best c ≠ 0 ∧
      t = (s.setIp (s.best c) false).respond (idWord (s.best c))) ∨
    (∃ c v, i = .complete c v ∧ s.ieAt c v.toNat = true ∧ t = s.setBusy v.toNat false) := by
  have reserved : ∀ a, reservedAccess a s = .next t → t = s ∨ ∃ v, t = s.respond v := by
    intro a ha
    unfold reservedAccess at ha
    split at ha
    · cases ha
    · split at ha <;> cases ha
      · exact .inr ⟨0, rfl⟩
      · exact .inl rfl
  cases i with
  | priorityRd n => cases h; exact .inr (.inl ⟨_, rfl⟩)
  | priorityWr n v =>
    simp only [exec, execPriorityWr, Host.Outcome.next.injEq] at h
    split at h
    · exact .inr (.inr (.inl ⟨n, v, rfl, ‹_›, h.symm⟩))
    · exact .inl h.symm
  | pendingRd w => cases h; exact .inr (.inl ⟨_, rfl⟩)
  | pendingWr w v => cases h; exact .inl rfl
  | enableRd c w => cases h; exact .inr (.inl ⟨_, rfl⟩)
  | enableWr c w v =>
    simp only [exec, execEnableWr, Host.Outcome.next.injEq] at h
    split at h
    · exact .inr (.inr (.inr (.inl ⟨c, w, v, rfl, ‹_›, h.symm⟩)))
    · exact .inl h.symm
  | thresholdRd c => cases h; exact .inr (.inl ⟨_, rfl⟩)
  | thresholdWr c v =>
    simp only [exec, execThresholdWr, Host.Outcome.next.injEq] at h
    split at h
    · exact .inr (.inr (.inr (.inr (.inl ⟨c, v, rfl, ‹_›, h.symm⟩))))
    · exact .inl h.symm
  | claim c =>
    simp only [exec, execClaim, State.claimed, Host.Outcome.next.injEq] at h
    split at h
    · split at h
      · exact .inr (.inl ⟨_, h.symm⟩)
      · exact .inr (.inr (.inr (.inr (.inr (.inl ⟨c, rfl, ‹_›, ‹_›, h.symm⟩)))))
    · exact .inr (.inl ⟨_, h.symm⟩)
  | complete c v =>
    simp only [exec, execComplete, Host.Outcome.next.injEq] at h
    by_cases hv : s.ieAt c v.toNat = true
    · rw [if_pos (by exact hv)] at h
      exact .inr (.inr (.inr (.inr (.inr (.inr ⟨c, v, rfl, hv, h.symm⟩)))))
    · rw [if_neg (by exact hv)] at h
      exact .inl h.symm
  | reservedSrc0 a => exact (reserved a h).imp_right .inl
  | reservedGap1 cc w a => exact (reserved a h).imp_right .inl
  | reservedGap2 cc w a => exact (reserved a h).imp_right .inl
  | reservedCtx c r a => exact (reserved a h).imp_right .inl

/-- What a step of the PLIC's own can do, once. -/
theorem runAgent_cases (a : AgentStep) (s : State) :
    (s.agentEnabled a = false ∧ runAgent a s = s) ∨
    (∃ n, a = .gwLevel n ∧ s.levelEnabled n = true ∧ runAgent a s = s.forward n) ∨
    (∃ n, a = .gwCounted n ∧ s.countedEnabled n = true ∧
      runAgent a s = (s.forward n).setCount n (s.countAt n - 1)) ∨
    (∃ c k, a = .notify c k ∧ s.notifyEnabled c k = true ∧ runAgent a s = s.deliver c k) := by
  cases a with
  | gwLevel n =>
    by_cases h : s.levelEnabled n = true
    · exact .inr (.inl ⟨n, rfl, h, by simp [runAgent, gwLevel, h]⟩)
    · exact .inl ⟨by simpa [State.agentEnabled] using h, by simp [runAgent, gwLevel, h]⟩
  | gwCounted n =>
    by_cases h : s.countedEnabled n = true
    · exact .inr (.inr (.inl ⟨n, rfl, h, by simp [runAgent, gwCounted, h]⟩))
    · exact .inl ⟨by simpa [State.agentEnabled] using h, by simp [runAgent, gwCounted, h]⟩
  | notify c k =>
    by_cases h : s.notifyEnabled c k = true
    · exact .inr (.inr (.inr ⟨c, k, rfl, h, by simp [runAgent, notify, h]⟩))
    · exact .inl ⟨by simpa [State.agentEnabled] using h, by simp [runAgent, notify, h]⟩

/-- What an edge at a gateway can do, once. -/
theorem gwEdge_cases (n : Nat) (s : State) :
    gwEdge n s = s ∨
    (s.hasSource n = true ∧ s.busyAt n = false ∧ s.kindOf n ≠ .level ∧ gwEdge n s = s.forward n) ∨
    (s.hasSource n = true ∧ s.busyAt n = true ∧ s.kindOf n = .edgeCount ∧
      gwEdge n s = s.setCount n (min (s.countAt n + 1) (s.cfg.gwCountMax.get n))) := by
  unfold gwEdge
  by_cases hs : s.hasSource n = true
  · rw [if_pos hs]
    cases hk : s.kindOf n <;> cases hb : s.busyAt n <;> simp [hs]
  · rw [if_neg hs]; exact .inl rfl

/-- What a step of the environment can do, once. -/
theorem runEnv_cases (e : EnvStep) (s : State) :
    runEnv e s = s ∨
    (∃ n l, e = .sig n l ∧ s.hasSource n = true ∧ runEnv e s = s.setSig n l) ∨
    (∃ n, (e = .edge n ∨ e = .msi n) ∧ s.hasSource n = true ∧ s.busyAt n = false ∧
      s.kindOf n ≠ .level ∧ runEnv e s = s.forward n) ∨
    (∃ n, (e = .edge n ∨ e = .msi n) ∧ s.hasSource n = true ∧ s.busyAt n = true ∧
      s.kindOf n = .edgeCount ∧
      runEnv e s = s.setCount n (min (s.countAt n + 1) (s.cfg.gwCountMax.get n))) := by
  cases e with
  | sig n l =>
    by_cases h : s.hasSource n = true
    · exact .inr (.inl ⟨n, l, rfl, h, by simp [runEnv, envSig, h]⟩)
    · exact .inl (by simp [runEnv, envSig, h])
  | edge n =>
    rcases gwEdge_cases n s with h | ⟨h1, h2, h3, h⟩ | ⟨h1, h2, h3, h⟩
    · exact .inl h
    · exact .inr (.inr (.inl ⟨n, .inl rfl, h1, h2, h3, h⟩))
    · exact .inr (.inr (.inr ⟨n, .inl rfl, h1, h2, h3, h⟩))
  | msi n =>
    rcases gwEdge_cases n s with h | ⟨h1, h2, h3, h⟩ | ⟨h1, h2, h3, h⟩
    · exact .inl h
    · exact .inr (.inr (.inl ⟨n, .inr rfl, h1, h2, h3, h⟩))
    · exact .inr (.inr (.inr ⟨n, .inr rfl, h1, h2, h3, h⟩))

theorem notifySteps_mem (c m : Nat) (a : AgentStep) :
    a ∈ notifySteps c m ↔ ∃ k, 1 ≤ k ∧ k ≤ m ∧ a = .notify c k := by
  induction m with
  | zero =>
    simp only [notifySteps, List.not_mem_nil, false_iff]
    rintro ⟨k, h1, h2, _⟩
    omega
  | succ m ih =>
    simp only [notifySteps, List.mem_append, ih, List.mem_singleton]
    constructor
    · rintro (⟨k, h1, h2, h3⟩ | h)
      · exact ⟨k, h1, by omega, h3⟩
      · exact ⟨m + 1, by omega, le_rfl, h⟩
    · rintro ⟨k, h1, h2, h3⟩
      by_cases hk : k = m + 1
      · exact .inr (hk ▸ h3)
      · exact .inl ⟨k, h1, by omega, h3⟩

theorem deliverySteps_mem (s : State) (j : Nat) (a : AgentStep) :
    a ∈ deliverySteps s j ↔
      ∃ c k, c < j ∧ 1 ≤ k ∧ k ≤ (s.nqAt c).length ∧ a = .notify c k := by
  induction j with
  | zero => simp [deliverySteps]
  | succ j ih =>
    simp only [deliverySteps, List.mem_append, ih, notifySteps_mem]
    constructor
    · rintro (⟨c, k, h1, h2⟩ | ⟨k, h1, h2, h3⟩)
      · exact ⟨c, k, by omega, h2⟩
      · exact ⟨j, k, by omega, h1, h2, h3⟩
    · rintro ⟨c, k, h1, h2, h3, h4⟩
      by_cases hc : c = j
      · subst hc; exact .inr ⟨k, h2, h3, h4⟩
      · exact .inl ⟨c, k, by omega, h2, h3, h4⟩

theorem gatewaySteps_mem (s : State) (j : Nat) (a : AgentStep) :
    a ∈ gatewaySteps s j ↔
      ∃ n, 1 ≤ n ∧ n ≤ j ∧ ((s.levelEnabled n = true ∧ a = .gwLevel n) ∨
        (s.countedEnabled n = true ∧ a = .gwCounted n)) := by
  induction j with
  | zero =>
    simp only [gatewaySteps, List.not_mem_nil, false_iff]
    rintro ⟨n, h1, h2, _⟩
    omega
  | succ j ih =>
    have hl : (a ∈ if s.levelEnabled (j + 1) = true then [AgentStep.gwLevel (j + 1)] else []) ↔
        (s.levelEnabled (j + 1) = true ∧ a = .gwLevel (j + 1)) := by split <;> simp_all
    have hc : (a ∈ if s.countedEnabled (j + 1) = true then [AgentStep.gwCounted (j + 1)] else []) ↔
        (s.countedEnabled (j + 1) = true ∧ a = .gwCounted (j + 1)) := by split <;> simp_all
    simp only [gatewaySteps, List.mem_append, ih, hl, hc]
    constructor
    · rintro ((⟨n, h1, h2, h3⟩ | h) | h)
      · exact ⟨n, h1, by omega, h3⟩
      · exact ⟨j + 1, by omega, le_rfl, .inl h⟩
      · exact ⟨j + 1, by omega, le_rfl, .inr h⟩
    · rintro ⟨n, h1, h2, h3⟩
      by_cases hn : n = j + 1
      · subst hn
        rcases h3 with h3 | h3
        · exact .inl (.inr h3)
        · exact .inr h3
      · exact .inl (.inl ⟨n, h1, by omega, h3⟩)

/-- The list of enabled steps holds exactly the enabled ones. -/
theorem enabledSteps_mem (s : State) (a : AgentStep) :
    a ∈ s.enabledSteps ↔ s.agentEnabled a = true := by
  simp only [State.enabledSteps, List.mem_append, gatewaySteps_mem, deliverySteps_mem]
  cases a with
  | gwLevel n =>
    simp only [State.agentEnabled, reduceCtorEq, and_false, exists_false, or_false,
      AgentStep.gwLevel.injEq]
    constructor
    · rintro ⟨m, _, _, h, rfl⟩; exact h
    · intro h
      have : s.hasSource n = true := by
        simp only [State.levelEnabled, Bool.and_eq_true] at h; exact h.1
      simp only [State.hasSource, Bool.and_eq_true, decide_eq_true_eq] at this
      exact ⟨n, this.1, this.2, h, rfl⟩
  | gwCounted n =>
    simp only [State.agentEnabled, reduceCtorEq, and_false, exists_false, false_or, or_false,
      AgentStep.gwCounted.injEq]
    constructor
    · rintro ⟨m, _, _, h, rfl⟩; exact h
    · intro h
      have : s.hasSource n = true := by
        simp only [State.countedEnabled, Bool.and_eq_true] at h; exact h.1
      simp only [State.hasSource, Bool.and_eq_true, decide_eq_true_eq] at this
      exact ⟨n, this.1, this.2, h, rfl⟩
  | notify c k =>
    simp only [State.agentEnabled, reduceCtorEq, and_false, or_false, exists_false, false_or,
      AgentStep.notify.injEq, State.notifyEnabled, Bool.and_eq_true, decide_eq_true_eq]
    constructor
    · rintro ⟨d, j, _, h1, h2, rfl, rfl⟩; exact ⟨h1, h2⟩
    · rintro ⟨h1, h2⟩
      have hc : c < s.cfg.nctx := by
        by_contra hc
        have : s.nqAt c = [] := by simp [State.nqAt, State.hasContext, hc]
        simp [this] at h2; omega
      exact ⟨c, k, hc, h1, h2, rfl, rfl⟩

/-- The choice is none exactly where nothing is enabled, else an enabled step. -/
theorem idleChoice_cases (s : State) :
    (s.enabledSteps = [] ∧ s.idleChoice = none) ∨
    (∃ a, s.agentEnabled a = true ∧ s.idleChoice = some a) := by
  unfold State.idleChoice
  cases he : s.enabledSteps with
  | nil => exact .inl ⟨rfl, rfl⟩
  | cons a l =>
    refine .inr ⟨(a :: l).getD (Config.freeChoice s.seq % (l.length + 1)) a, ?_, rfl⟩
    rw [← enabledSteps_mem, he]
    have hlt : Config.freeChoice s.seq % (l.length + 1) < (a :: l).length := by
      simpa using Nat.mod_lt _ (Nat.succ_pos l.length)
    rw [List.getD_eq_getElem _ _ hlt]
    exact List.getElem_mem hlt

/-- What the machine does when nothing is scheduled: it rests, or one of its enabled steps is taken. -/
theorem idleStep_cases (s : State) :
    (s.enabledSteps = [] ∧ idleStep s = s) ∨
    (∃ a, s.agentEnabled a = true ∧ idleStep s = noteEip s (runAgent a s.nextChoice)) := by
  unfold idleStep
  rcases idleChoice_cases s with ⟨h1, h2⟩ | ⟨a, h1, h2⟩
  · exact .inl ⟨h1, by rw [h2]⟩
  · exact .inr ⟨a, h1, by rw [h2]⟩

/-- The machine's step, once: rest, a step of its own where nothing is scheduled, a bus operation, a
scheduled step of its own, or a step of the environment; after it the changes of `eip` are queued. -/
theorem step_cases (s t : State) (h : step s = .next t) :
    (s.todo = [] ∧ s.enabledSteps = [] ∧ t = s) ∨
    (s.todo = [] ∧ ∃ a, s.agentEnabled a = true ∧ t = noteEip s (runAgent a s.nextChoice)) ∨
    (∃ b rest i u, s.todo = .bus b :: rest ∧ fetch s.cfg b = .next i ∧
      exec i (s.setTodo rest) = .next u ∧ t = noteEip (s.setTodo rest) u) ∨
    (∃ a rest, s.todo = .agent a :: rest ∧
      t = noteEip (s.setTodo rest) (runAgent a (s.setTodo rest))) ∨
    (∃ e rest, s.todo = .env e :: rest ∧
      t = noteEip (s.setTodo rest) (runEnv e (s.setTodo rest))) := by
  unfold step at h
  cases htodo : s.todo with
  | nil =>
    rw [htodo] at h
    cases h
    rcases idleStep_cases s with ⟨h1, h2⟩ | ⟨a, h1, h2⟩
    · exact .inl ⟨rfl, h1, h2⟩
    · exact .inr (.inl ⟨rfl, a, h1, h2⟩)
  | cons e rest =>
    rw [htodo] at h
    cases e with
    | agent a =>
      simp only [runEvent, Host.Outcome.next.injEq] at h
      exact .inr (.inr (.inr (.inl ⟨a, rest, rfl, h.symm⟩)))
    | env e =>
      simp only [runEvent, Host.Outcome.next.injEq] at h
      exact .inr (.inr (.inr (.inr ⟨e, rest, rfl, h.symm⟩)))
    | bus b =>
      simp only [runEvent, runBus, State.setTodo_cfg] at h
      cases hf : fetch s.cfg b with
      | fault f => rw [hf] at h; cases h
      | refused r => rw [hf] at h; cases h
      | next i =>
        rw [hf] at h
        cases hx : exec i (s.setTodo rest) with
        | fault f => simp only [hx, noteResult] at h; cases h
        | refused r => simp only [hx, noteResult] at h; cases h
        | next u =>
          simp only [hx, noteResult, Host.Outcome.next.injEq] at h
          exact .inr (.inr (.inl ⟨b, rest, i, u, rfl, hf, hx, h.symm⟩))

end Sys2Proof.Machine
end

