-- ==== Sys2Proof/Laws/Update.lean ====
section
/-! SUPPORT. The machine's step as one update of the registers, whoever takes it; and what the updates of
the meanings with a selection in them do, once. -/

namespace Sys2Proof.Machine

/-- One more step of a run. -/
theorem run_succ (M : Host.Core) (k : Nat) (s t : M.State) (h : M.step s = .next t) :
    M.run (k + 1) s = M.run k t := by
  rw [Host.Core.run, h]

theorem forward_ipAt (s : State) (n m : Nat) :
    (s.forward n).ipAt m = if m = n then s.hasSource m else s.ipAt m := by
  unfold State.forward
  rw [State.setIp_ipAt]
  simp

theorem forward_busyAt (s : State) (n m : Nat) :
    (s.forward n).busyAt m = if m = n then s.hasSource m else s.busyAt m := by
  unfold State.forward
  rw [State.setIp_busyAt, State.setBusy_busyAt]
  simp

/-- A claim by a context the implementation lacks selects nothing. -/
theorem best_absent (s : State) (c : Nat) (hc : s.hasContext c = false) : s.best c = 0 := by
  rcases s.best_spec c with h | ⟨_, h, _⟩
  · exact h.1
  · simp [State.candidate, State.ieAt, hc] at h

/-- What a claim answers, in one form for the contexts that exist and those that do not. -/
theorem exec_claim (c : Nat) (s : State) :
    Host.Outcome.next (s.claimed (s.best c)) = execClaim c s := by
  by_cases hc : s.hasContext c = true
  · simp [execClaim, hc]
  · have := best_absent s c (by simpa using hc)
    simp [execClaim, hc, State.claimed, this, idWord]

theorem claimed_ipAt (s : State) (n m : Nat) :
    (s.claimed n).ipAt m = if m = n then false else s.ipAt m := by
  unfold State.claimed
  by_cases h : n = 0
  · subst h
    by_cases hm : m = 0
    · subst hm
      simp [State.ipAt, State.hasSource]
    · simp [hm]
  · simp [h, State.setIp_ipAt]

/-- `r` is `s` but for the steps to come and the number of choices taken: what a step updates. -/
def SameMachine (s r : State) : Prop := r = { s with todo := r.todo, seq := r.seq }

theorem SameMachine.noteEip_eq {s r : State} (h : SameMachine s r) (u : State) :
    noteEip s u = noteEip r u := by
  have he : ∀ c, r.eip c = s.eip c := fun c => by rw [h]; rfl
  have hq : ∀ k, queueChanges s u k = queueChanges r u k := fun k => by
    induction k with
    | zero => rfl
    | succ k ih => simp only [queueChanges, ih, he]
  simp [noteEip, hq]

/-- What a step of the PLIC's own leaves, seen as an update. -/
theorem runAgent_update (a : AgentStep) (r : State) :
    runAgent a r = r ∨
    (∃ n, r.hasSource n = true ∧ r.busyAt n = false ∧ runAgent a r = r.forward n) ∨
    (∃ n, r.hasSource n = true ∧ r.busyAt n = false ∧ r.kindOf n = .edgeCount ∧ 0 < r.countAt n ∧
      runAgent a r = (r.forward n).setCount n (r.countAt n - 1)) ∨
    (∃ c k, r.notifyEnabled c k = true ∧ runAgent a r = r.deliver c k) := by
  rcases runAgent_cases a r with ⟨_, h⟩ | ⟨n, _, h1, h⟩ | ⟨n, _, h1, h⟩ | ⟨c, k, _, h1, h⟩
  · exact .inl h
  · simp only [State.levelEnabled, Bool.and_eq_true, Bool.not_eq_true'] at h1
    exact .inr (.inl ⟨n, h1.1, h1.2.2.1, h⟩)
  · simp only [State.countedEnabled, Bool.and_eq_true, Bool.not_eq_true', decide_eq_true_eq] at h1
    exact .inr (.inr (.inl ⟨n, h1.1, h1.2.2.1, h1.2.1, h1.2.2.2, h⟩))
  · exact .inr (.inr (.inr ⟨c, k, h1, h⟩))

/-- Everything one step can do to the registers, whoever takes it: `r` is the state the step acts on, `u`
what it makes of it, and after it the changes of `eip` are queued. -/
theorem step_update (s t : State) (h : step s = .next t) :
    ∃ r u, SameMachine s r ∧ t = noteEip r u ∧
    (u = r ∨ (∃ v, u = r.respond v) ∨
    (∃ n v, s.nextIs (.priorityWr n v) ∧ r.hasSource n = true ∧ u = r.setPrio n (r.legalPrio n v)) ∨
    (∃ c w v, s.nextIs (.enableWr c w v) ∧ r.hasContext c = true ∧
      u = r.setIeRow c (r.enableRow c w v 32)) ∨
    (∃ c v, s.nextIs (.thresholdWr c v) ∧ r.hasContext c = true ∧ u = r.setThr c (r.legalThr c v)) ∨
    (∃ c, s.nextIs (.claim c) ∧ r.hasContext c = true ∧ r.best c ≠ 0 ∧
      u = (r.setIp (r.best c) false).respond (idWord (r.best c))) ∨
    (∃ c v, s.nextIs (.complete c v) ∧ r.ieAt c v.toNat = true ∧ u = r.setBusy v.toNat false) ∨
    (∃ n, r.hasSource n = true ∧ r.busyAt n = false ∧ u = r.forward n) ∨
    (∃ n, r.hasSource n = true ∧ r.busyAt n = false ∧ r.kindOf n = .edgeCount ∧ 0 < r.countAt n ∧
      u = (r.forward n).setCount n (r.countAt n - 1)) ∨
    (∃ n, r.hasSource n = true ∧ r.busyAt n = true ∧ r.kindOf n = .edgeCount ∧
      u = r.setCount n (min (r.countAt n + 1) (r.cfg.gwCountMax.get n))) ∨
    (∃ n l, r.hasSource n = true ∧ u = r.setSig n l) ∨
    (∃ c k, r.notifyEnabled c k = true ∧ u = r.deliver c k)) := by
  rcases step_cases s t h with ⟨_, _, rfl⟩ | ⟨_, a, _, ht⟩ | ⟨b, rest, i, u, h1, h2, h3, ht⟩ |
    ⟨a, rest, _, ht⟩ | ⟨e, rest, _, ht⟩
  · exact ⟨t, t, rfl, (noteEip_same _ _ fun _ => rfl).symm, .inl rfl⟩
  · have hb : SameMachine s s.nextChoice := rfl
    refine ⟨s.nextChoice, _, hb, ht.trans (hb.noteEip_eq _), ?_⟩
    rcases runAgent_update a s.nextChoice with h | h | h | h <;> simp only [h, true_or, or_true]
  · refine ⟨s.setTodo rest, u, rfl, ht, ?_⟩
    have hn : s.nextIs i := ⟨b, rest, h1, h2⟩
    rcases exec_cases i _ u h3 with h | h | ⟨n, v, rfl, h⟩ | ⟨c, w, v, rfl, h⟩ | ⟨c, v, rfl, h⟩ |
      ⟨c, rfl, h⟩ | ⟨c, v, rfl, h⟩
    · exact .inl h
    · exact .inr (.inl h)
    · exact .inr (.inr (.inl ⟨n, v, hn, h⟩))
    · exact .inr (.inr (.inr (.inl ⟨c, w, v, hn, h⟩)))
    · exact .inr (.inr (.inr (.inr (.inl ⟨c, v, hn, h⟩))))
    · exact .inr (.inr (.inr (.inr (.inr (.inl ⟨c, hn, h⟩)))))
    · exact .inr (.inr (.inr (.inr (.inr (.inr (.inl ⟨c, v, hn, h⟩))))))
  · refine ⟨s.setTodo rest, _, rfl, ht, ?_⟩
    rcases runAgent_update a (s.setTodo rest) with h | h | h | h <;> simp only [h, true_or, or_true]
  · refine ⟨s.setTodo rest, _, rfl, ht, ?_⟩
    rcases runEnv_cases e (s.setTodo rest) with h | ⟨n, l, _, h1, h⟩ | ⟨n, _, h1, h2, _, h⟩ |
      ⟨n, _, h1, h2, h3, h⟩
    · exact .inl h
    · exact .inr (.inr (.inr (.inr (.inr (.inr (.inr (.inr (.inr (.inr (.inl ⟨n, l, h1, h⟩))))))))))
    · exact .inr (.inr (.inr (.inr (.inr (.inr (.inr (.inl ⟨n, h1, h2, h⟩)))))))
    · exact .inr (.inr (.inr (.inr (.inr (.inr (.inr (.inr (.inr (.inl ⟨n, h1, h2, h3, h⟩)))))))))

end Sys2Proof.Machine
end

