-- ==== Sys2Proof/Laws/Run.lean ====
section
/-! SUPPORT. What the machine does with the step whose turn it is, and what a run keeps. -/

namespace Sys2Proof.Machine

@[simp] theorem setTodo_nextEvent (s : State) (e : Event) (l : List Event) :
    (s.setTodo (e :: l)).nextEvent = some e := rfl

/-- Where it is the turn of a step of the PLIC's own, the machine runs it. -/
theorem step_agent (s : State) (a : AgentStep) (h : s.nextEvent = some (.agent a)) :
    ∃ r, SameMachine s r ∧ step s = .next (noteEip r (runAgent a r)) := by
  unfold State.nextEvent at h
  cases ht : s.todo with
  | nil =>
    rw [ht] at h
    have hc : s.idleChoice = some a := by simpa using h
    have hb : SameMachine s s.nextChoice := rfl
    refine ⟨s.nextChoice, hb, ?_⟩
    simp only [step, ht, idleStep, hc, hb.noteEip_eq]
  | cons e l =>
    rw [ht] at h
    cases h
    exact ⟨s.setTodo l, rfl, by simp only [step, ht, runEvent]⟩

/-- At rest the machine stays as it is. -/
theorem step_rest (s : State) (h : s.nextEvent = none) : step s = .next s := by
  unfold State.nextEvent at h
  cases ht : s.todo with
  | nil =>
    rw [ht] at h
    have hc : s.idleChoice = none := by simpa using h
    simp only [step, ht, idleStep, hc]
  | cons e l => rw [ht] at h; cases h

/-- A property that a step and a change of the schedule keep holds from any point of a run on. -/
theorem FairRun.induct {σ : Nat → State} (h : FairRun σ) (P : State → Prop)
    (hs : ∀ s t, P s → step s = .next t → P t) (hl : ∀ s l, P s → P (s.setTodo l)) (i : Nat)
    (hi : P (σ i)) (j : Nat) (hj : i ≤ j) : P (σ j) := by
  induction j, hj using Nat.le_induction with
  | base => exact hi
  | succ j _ ih =>
    obtain ⟨t, l, h1, h2⟩ := h.steps j
    rw [h2]
    exact hl t l (hs _ _ ih h1)

end Sys2Proof.Machine
end

