-- ==== Sys2Proof/Tests/Slice0.lean ====
section
/-! SUPPORT. Tests: ill-formed operands refused, words written out from the encoding decoded, and the
vectors of 95_test_vectors.md under its configuration T. -/

namespace Sys2Proof.Tests

open Sys2Proof.Machine

/-! Well-formedness: each check refuses a term just outside its range. -/

theorem test_source_zero_refused : (Instr.priorityRd 0).wellFormed = false := by decide
theorem test_source_1024_refused : (Instr.priorityWr 1024 0).wellFormed = false := by decide
theorem test_word_32_refused : (Instr.pendingRd 32).wellFormed = false := by decide
theorem test_pendingWr_word_refused : (Instr.pendingWr 32 0).wellFormed = false := by decide
theorem test_context_15872_refused : (Instr.enableRd 15872 0).wellFormed = false := by decide
theorem test_enableWr_word_refused : (Instr.enableWr 0 32 0).wellFormed = false := by decide
theorem test_thresholdRd_context_refused : (Instr.thresholdRd 15872).wellFormed = false := by decide
theorem test_thresholdWr_context_refused : (Instr.thresholdWr 15872 0).wellFormed = false := by decide
theorem test_claim_context_refused : (Instr.claim 15872).wellFormed = false := by decide
theorem test_complete_context_refused : (Instr.complete 15872 0).wellFormed = false := by decide
theorem test_gap1_below_refused : (Instr.reservedGap1 0x20 0 .read).wellFormed = false := by decide
theorem test_gap1_above_refused : (Instr.reservedGap1 0x40 0 .read).wellFormed = false := by decide
theorem test_gap2_below_refused : (Instr.reservedGap2 0x3E3F 0 .read).wellFormed = false := by decide
theorem test_gap2_above_refused : (Instr.reservedGap2 0x4000 0 .read).wellFormed = false := by decide
theorem test_blockReg_1_refused : (Instr.reservedCtx 0 1 .read).wellFormed = false := by decide
theorem test_blockReg_1024_refused : (Instr.reservedCtx 0 1024 .read).wellFormed = false := by decide
theorem test_last_operands_accepted :
    (Instr.reservedCtx 15871 1023 .read).wellFormed = true := by decide

/-! Decoding: the words of 95_test_vectors.md 2.1, and three with their bits written out from R81. -/

theorem test_decode_priorityRd : decodeTableWord 32 0x0000008 = some (.priorityRd 2) := by decide
theorem test_decode_priorityWr : decodeTableWord 64 0x5_04000FFC = some (.priorityWr 1023 5) := by decide
theorem test_decode_pendingRd : decodeTableWord 32 0x000107C = some (.pendingRd 31) := by decide
theorem test_decode_pendingWr : decodeTableWord 32 0x4001000 = some (.pendingWr 0 0) := by decide
theorem test_decode_enableRd : decodeTableWord 32 0x01F1F80 = some (.enableRd 15871 0) := by decide
theorem test_decode_enableWr : decodeTableWord 32 0x40021FC = some (.enableWr 3 31 0) := by decide
theorem test_decode_thresholdRd : decodeTableWord 32 0x3FFF000 = some (.thresholdRd 15871) := by decide
theorem test_decode_thresholdWr : decodeTableWord 32 0x4200000 = some (.thresholdWr 0 0) := by decide
theorem test_decode_claim : decodeTableWord 32 0x0201004 = some (.claim 1) := by decide
theorem test_decode_complete : decodeTableWord 64 0x9_04200004 = some (.complete 0 9) := by decide
theorem test_decode_reservedSrc0 : decodeTableWord 32 0x4000000 = some (.reservedSrc0 (.write 0)) := by
  decide
theorem test_decode_reservedGap1 : decodeTableWord 32 0x0001080 = some (.reservedGap1 0x21 0 .read) := by
  decide
theorem test_decode_reservedGap2 :
    decodeTableWord 32 0x41FFFFC = some (.reservedGap2 0x3FFF 31 (.write 0)) := by decide
theorem test_decode_reservedCtx : decodeTableWord 32 0x0200008 = some (.reservedCtx 0 2 .read) := by
  decide
/-- Format P: dir 1, fourteen zeros, N = 3 in bits 11:2. -/
theorem test_bits_priorityWr :
    decode 0b1_00000000000000_0000000011_00#27 7 = some (.priorityWr 3 7) := by decide
/-- Format E: dir 0, cc = 0x41 (context 1) in bits 25:7, w = 1 in bits 6:2. -/
theorem test_bits_enableRd :
    decode 0b0_0000000000001000001_00001_00#27 0 = some (.enableRd 1 1) := by decide
/-- Format C: dir 1, pp = 0x201 (context 1) in bits 25:12, r = 1 in bits 11:2. -/
theorem test_bits_complete :
    decode 0b1_00001000000001_0000000001_00#27 4 = some (.complete 1 4) := by decide
theorem test_misaligned_refused : decodeWords 0x0200002 0 = .error .misaligned := by rfl
theorem test_bit_27_refused : decodeWords 0x8000000 0 = .error .notAccessWord := by rfl

/-! Single steps. `T` is the reset state of configuration T. -/

/-- The all-zero reset state of the reference configuration. -/
def T : State := State.resetOf Config.reference

/-- T with the pending bits and the gateways of the listed sources set. -/
def pendingAt (l : List Nat) (s : State) : State := l.foldl (fun s n => s.forward n) s

/-- The state a meaning answers. -/
def after (r : Result) (s : State) : State :=
  match r with
  | .next t => t
  | .fault _ => s
  | .refused _ => s

/-- What the read of an operation returns. -/
def reads (i : Instr) (s : State) : Option Word := (after (exec i s) (s.respond 0xDEAD)).rdata

/-- V-PRIO-4. -/
theorem test_priorityWr_drops_bit_31 :
    (after (exec (.priorityWr 3 0x80000003) T) T).prioAt 3 = 3 := by decide
/-- V-PRIO-7: mask 6, fixed 1. -/
theorem test_priorityWr_keeps_fixed :
    (after (exec (.priorityWr 3 0xFFFFFFFF)
      (State.resetOf { Config.reference with prioRwMask := ⟨6, []⟩, prioFixed := ⟨1, []⟩ })) T).prioAt 3
      = 7 := by decide
/-- V-PRIO-1. -/
theorem test_priorityRd : reads (.priorityRd 3) (T.setPrio 3 5) = some 5 := by decide
/-- V-PRIO-13: source 41 is not implemented. -/
theorem test_priorityRd_absent : reads (.priorityRd 41) (T.setPrio 41 7) = some 0 := by decide
/-- V-PRIO-15: EIP rises in the step of the write, and the change is queued. -/
theorem test_priorityWr_queues_eip :
    (after (runBus ⟨.store, 0x0C00000C, 4, 3⟩
      (((pendingAt [3] T).setPrio 3 2).setThr 0 2 |>.setIeRow 0 ⟨false, [(3, true)]⟩)) T).nqAt 0
      = [true] := by decide
/-- V-PEND-1. -/
theorem test_pendingRd_word_0 :
    reads (.pendingRd 0) (pendingAt [1, 10, 31, 33, 40] T) = some 0x80000402 := by decide
/-- V-PEND-2. -/
theorem test_pendingRd_word_1 :
    reads (.pendingRd 1) (pendingAt [1, 10, 31, 33, 40] T) = some 0x00000102 := by decide
/-- V-PEND-4. -/
theorem test_pendingWr_ignored :
    (after (exec (.pendingWr 0 0) (pendingAt [10] T)) T).ipAt 10 = true := by decide
/-- V-EN-1. -/
theorem test_enableWr_bit_0_hardwired :
    reads (.enableRd 0 0) (after (exec (.enableWr 0 0 0xFFFFFFFF) T) T) = some 0xFFFFFFFE := by decide
/-- V-EN-10: source 5 hardwired to 1 and source 6 to 0 for context 1. -/
theorem test_enableWr_hardwired_bits :
    reads (.enableRd 1 0) (after (exec (.enableWr 1 0 0xFFFFFFFF) (State.resetOf
      { Config.reference with
        ieHard1 := ⟨⟨false, []⟩, [(1, ⟨false, [(5, true)]⟩)]⟩
        ieHard0 := ⟨⟨false, []⟩, [(1, ⟨false, [(6, true)]⟩)]⟩ })) T) = some 0xFFFFFFBE := by decide
/-- V-EN-2. -/
theorem test_enableRd_above_nsrc :
    reads (.enableRd 0 1) (after (exec (.enableWr 0 1 0xFFFFFFFF) T) T) = some 0x000001FF := by decide
/-- V-EN-5: context 2 is not implemented. -/
theorem test_enableRd_absent_context :
    reads (.enableRd 2 0) (after (exec (.enableWr 2 0 0xFFFFFFFF) T) T) = some 0 := by decide
/-- V-THR-1. -/
theorem test_thresholdWr_masks : (after (exec (.thresholdWr 0 0x0000000A) T) T).thrAt 0 = 2 := by decide
/-- V-THR-4. -/
theorem test_thresholdWr_absent_context :
    reads (.thresholdRd 2) (after (exec (.thresholdWr 2 5) T) T) = some 0 := by decide
theorem test_thresholdRd : reads (.thresholdRd 1) (T.setThr 1 2) = some 2 := by decide

/-- The pre-state of V-CL-1 to V-CL-7. -/
def claimState : State :=
  ((((((((pendingAt [4, 9, 12, 15, 20] T).setPrio 4 2).setPrio 9 6).setPrio 12 6).setPrio 15 7).setThr 0
    7).setIeRow 0 ⟨false, [(4, true), (9, true), (12, true), (20, true)]⟩).setIeRow 1
    ⟨false, [(15, true)]⟩)

/-- V-CL-1: the threshold masks all, 9 beats 12 by ID, 15 is not enabled for context 0. -/
theorem test_claim_returns_best : reads (.claim 0) claimState = some 9 := by decide
/-- V-CL-4: priority 0 is skipped. -/
theorem test_claim_skips_priority_0 :
    reads (.claim 0) (((claimState.setIp 4 false).setIp 9 false).setIp 12 false) = some 0 := by decide
/-- V-CL-5: EIP falls and the change is queued. -/
theorem test_claim_queues_eip :
    (after (runBus ⟨.load, 0x0C201004, 4, 0⟩ claimState) T).nqAt 1 = [false] := by decide

/-- The pre-state of V-CO-1 to V-CO-8. -/
def completeState : State := (T.setBusy 9 true).setIeRow 0 ⟨false, [(9, true)]⟩

/-- V-CO-1. -/
theorem test_complete_frees : (after (exec (.complete 0 9) completeState) T).busyAt 9 = false := by
  decide
/-- V-CO-3: 1033 names no source. -/
theorem test_complete_compares_32_bits :
    (after (exec (.complete 0 0x409) completeState) T).busyAt 9 = true := by decide

/-- T with reserved accesses answered. -/
def answering : State :=
  State.resetOf { Config.reference with reservedAccess := .readZeroIgnoreWrite }

/-- 95_test_vectors.md 2.1, last paragraph. -/
theorem test_reserved_refused : exec (.reservedSrc0 .read) T = .refused .reserved := by rfl
theorem test_reservedSrc0_reads_0 : reads (.reservedSrc0 .read) answering = some 0 := by decide
theorem test_reservedGap1_reads_0 : reads (.reservedGap1 0x21 0 .read) answering = some 0 := by decide
theorem test_reservedGap2_ignores :
    exec (.reservedGap2 0x3FFF 31 (.write 7)) answering = .next answering := by rfl
theorem test_reservedCtx_reads_0 : reads (.reservedCtx 1 2 .read) answering = some 0 := by decide

/-- V-GW-2. -/
theorem test_gwLevel_forwards :
    (gwLevel 7 (T.setSig 7 true)).ipAt 7 = true ∧ (gwLevel 7 (T.setSig 7 true)).busyAt 7 = true := by
  decide
/-- V-GW-9, the fifth edge: the counter is full. -/
theorem test_gwEdge_saturates : (gwEdge 32 ((T.setBusy 32 true).setCount 32 3)).countAt 32 = 3 := by
  decide
/-- V-GW-7, the second edge. -/
theorem test_gwEdge_ignored : gwEdge 31 (pendingAt [31] T) = pendingAt [31] T := by decide
/-- V-GW-10. -/
theorem test_gwCounted : (gwCounted 32 (T.setCount 32 3)).countAt 32 = 2 := by decide
/-- V-GW-12. -/
theorem test_edge_at_level_gateway : runEnv (.edge 7) T = T := by decide
/-- V-NO-5. -/
theorem test_notify_skips : (notify 0 2 (T.setNq 0 [true, false])).notifAt 0 = false := by decide
/-- V-NO-4, the first delivery. -/
theorem test_notify_delivers_oldest :
    (notify 0 1 (T.setNq 0 [true, false])).notifAt 0 = true ∧
      (notify 0 1 (T.setNq 0 [true, false])).nqAt 0 = [false] := by decide
/-- V-NO-2 seen at hart 0: context 0 of T is hart 0 in machine mode. -/
theorem test_meip : (T.setNotif 0 true).meip 0 = true ∧ (T.setNotif 0 true).seip 0 = false := by decide

/-! Accesses without a meaning (95_test_vectors.md 2.1, "refused before decode"). -/

theorem test_byte_read_refused : runBus ⟨.load, 0x0C200004, 1, 0⟩ T = .refused .width := by rfl
theorem test_misaligned_read_refused :
    runBus ⟨.load, 0x0C200002, 4, 0⟩ T = .refused .misaligned := by rfl
theorem test_fetch_refused : runBus ⟨.fetch, 0x0C000000, 4, 0⟩ T = .refused .instructionFetch := by rfl
theorem test_amo_refused : runBus ⟨.amo, 0x0C002000, 4, 0⟩ T = .refused .atomicOperation := by rfl
theorem test_outside_region_faults :
    runBus ⟨.load, 0x10000000, 4, 0⟩ T = .fault .outsideRegion := by rfl

/-! Running from reset. -/

/-- The first operation after reset: THRESHOLD.WR 0, 0x0A. -/
theorem test_first_step_from_reset :
    (after (step (State.reset.withFetchWord 64 0xA_04200000)) T).thrAt 0 = 2 := by decide
/-- With nothing scheduled and nothing enabled the machine rests. -/
theorem test_reset_rests : step State.reset = .next State.reset := by rfl


/-! Witnesses: for each statement of Certificates/Slice0/Obligations.lean that has hypotheses, a concrete
state and operands that meet them together, at the boundary values of their ranges. -/

theorem witness_DecodeEncodeAgree :
    (Instr.priorityRd 1023).wellFormed ∧ (Instr.priorityWr 1 0).wellFormed ∧
    (Instr.pendingRd 31).wellFormed ∧ (Instr.pendingWr 0 0).wellFormed ∧
    (Instr.enableRd 15871 31).wellFormed ∧ (Instr.enableWr 0 0 0).wellFormed ∧
    (Instr.thresholdRd 15871).wellFormed ∧ (Instr.thresholdWr 0 0).wellFormed ∧
    (Instr.claim 15871).wellFormed ∧ (Instr.complete 0 0).wellFormed ∧
    (Instr.reservedSrc0 .read).wellFormed ∧ (Instr.reservedGap1 0x21 31 .read).wellFormed ∧
    (Instr.reservedGap2 0x3FFF 0 .read).wellFormed ∧ (Instr.reservedCtx 15871 2 .read).wellFormed := by
  decide
theorem witness_EncodeDecodeAgree :
    decode 0x7FFF004 9 = some (.complete 15871 9) ∧ dirBit 0x7FFF004 = true := by decide
theorem witness_AlignedWordSelectsOneTableRow :
    lowField 0x0000000 = 0 ∧ lowField 0x7FFFFFC = 0 := by decide
theorem witness_SourceNumberFromPriorityOffset :
    (offField 0x4000000 < 0x1000 ∧ lowField 0x4000000 = 0 ∧ regField 0x4000000 = 0) ∧
    (offField 0x4000FFC < 0x1000 ∧ lowField 0x4000FFC = 0 ∧ regField 0x4000FFC ≠ 0) := by decide
theorem witness_ContextAndWordFromEnableOffset :
    (0x2000 ≤ offField 0x4002000 ∧ offField 0x4002000 < 0x1F2000 ∧ lowField 0x4002000 = 0) ∧
    (0x2000 ≤ offField 0x01F1FFC ∧ offField 0x01F1FFC < 0x1F2000 ∧ lowField 0x01F1FFC = 0) := by decide
theorem witness_ContextAndRegisterFromBlockOffset :
    (0x200000 ≤ offField 0x0200000 ∧ lowField 0x0200000 = 0 ∧ regField 0x0200000 = 0) ∧
    (0x200000 ≤ offField 0x7FFF004 ∧ lowField 0x7FFF004 = 0 ∧ regField 0x7FFF004 = 1) ∧
    (0x200000 ≤ offField 0x3FFF008 ∧ lowField 0x3FFF008 = 0 ∧ 2 ≤ regField 0x3FFF008) ∧
    (0x200000 ≤ offField 0x3FFFFFC ∧ lowField 0x3FFFFFC = 0 ∧ 2 ≤ regField 0x3FFFFFC) := by decide

/-- T with one access waiting on the bus. -/
def accessing (b : BusAccess) : State := T.setTodo [.bus b]

theorem witness_StepRunsDecodedOperation :
    (accessing ⟨.store, 0x0FFFF004, 4, 9⟩).todo = [.bus ⟨.store, 0x0FFFF004, 4, 9⟩] ∧
    wordAccess T.cfg ⟨.store, 0x0FFFF004, 4, 9⟩ = true ∧
    busAccess ⟨.store, 0x0FFFF004, 4, 9⟩ = .ok (.write 9) ∧
    decode (accessWord (.write 9) (0x0FFFF004 - T.cfg.base)) 9 = some (.complete 15871 9) :=
  ⟨rfl, by decide, rfl, by decide⟩
theorem witness_FetchWordRunsOperation : (Instr.enableWr 15871 31 0xFFFFFFFF).wellFormed = true := by
  decide
/-- One access for each clause: just below and just past the region, and the last addresses in it. -/
theorem witness_OtherAccessesStopByName :
    ¬ (T.cfg.base ≤ 0x0BFFFFFF ∧ 0x0BFFFFFF < T.cfg.base + 0x4000000) ∧
    ¬ (T.cfg.base ≤ 0x10000000 ∧ 0x10000000 < T.cfg.base + 0x4000000) ∧
    (T.cfg.base ≤ 0x0FFFFFFC ∧ 0x0FFFFFFC < T.cfg.base + 0x4000000) ∧
    (T.cfg.base ≤ 0x0FFFFFFF ∧ 0x0FFFFFFF < T.cfg.base + 0x4000000 ∧
      (0x0FFFFFFF - T.cfg.base) % 4 ≠ 0) ∧
    (accessing ⟨.amo, 0x0FFFFFFC, 4, 0⟩).todo = [.bus ⟨.amo, 0x0FFFFFFC, 4, 0⟩] := by decide

/-- The boundary operands of the registers' addresses, and offsets on both sides of a register. -/
theorem witness_register_addresses :
    (1 ≤ 1 ∧ 1 ≤ 1023 ∧ 1 ≤ 1023 ∧ 1023 ≤ 1023) ∧ (31 ≤ 31 ∧ 15871 ≤ 15871) ∧
    (4 * 3 - 1 < 0x4000000 ∧ ¬ (4 * 3 ≤ 4 * 3 - 1 ∧ 4 * 3 - 1 < 4 * 3 + 4)) ∧
    (4 * 3 + 4 < 0x4000000 ∧ ¬ (4 * 3 ≤ 4 * 3 + 4 ∧ 4 * 3 + 4 < 4 * 3 + 4)) := by decide
theorem witness_PriorityWriteStoresLegalValue :
    ¬ (1 ≤ 0 ∧ 0 ≤ T.cfg.nsrc) ∧ ¬ (1 ≤ 41 ∧ 41 ≤ T.cfg.nsrc) ∧ (1 ≤ 40 ∧ 40 ≤ T.cfg.nsrc) := by
  decide
theorem witness_EnableWriteReplacesWord :
    ¬ 2 < T.cfg.nctx ∧ 1 < T.cfg.nctx ∧ 40 ≤ T.cfg.nsrc ∧ 32 * 1 ≤ 40 ∧ 40 < 32 * 1 + 32 ∧
      T.hard0 1 40 = false ∧ T.hard1 1 40 = false := by decide
theorem witness_ThresholdWriteStoresLegalValue : ¬ 2 < T.cfg.nctx ∧ 1 < T.cfg.nctx := by decide
/-- A claim that returns 0 and one that returns 9, ahead of 12, 20 and 4. -/
theorem witness_ClaimReturnsBestAndClearsIt :
    T.best 0 = 0 ∧ claimState.best 0 = 9 ∧ 12 ≠ 9 ∧ claimState.ipAt 12 = true ∧
      claimState.ieAt 0 12 = true ∧ 0 < claimState.prioAt 12 := by decide
theorem witness_CompleteFreesEnabledGateway :
    (0 < completeState.cfg.nctx ∧ 1 ≤ (9 : Word).toNat ∧ (9 : Word).toNat ≤ completeState.cfg.nsrc ∧
      (completeState.ie.get 0).get 9 = true) ∧
    ¬ (0 < completeState.cfg.nctx ∧ 1 ≤ (0 : Word).toNat) ∧
    ¬ (0x409 : Word).toNat ≤ completeState.cfg.nsrc ∧ ¬ 2 < completeState.cfg.nctx := by decide
theorem witness_CompletionIsNotCheckedAgainstClaims :
    completeState.ieAt 0 (9 : Word).toNat = true := by decide
theorem witness_ReservedAccessFollowsParameter :
    isReserved (.reservedCtx 0 2 .read) = true ∧ isReserved (.reservedGap1 0x21 0 (.write 7)) = true ∧
    T.cfg.reservedAccess = .refuse ∧ answering.cfg.reservedAccess = .readZeroIgnoreWrite := by decide
theorem witness_RegionHoldsWhatReadsReturn :
    (Instr.enableRd 15871 31).wellFormed = true ∧ accessFor (.enableRd 15871 31) = .read ∧
    isReserved (.enableRd 15871 31) = false ∧ (∀ c, Instr.enableRd 15871 31 ≠ .claim c) ∧
    0x3FFFFFC % 4 = 0 :=
  ⟨by decide, rfl, rfl, fun _ h => Instr.noConfusion h, by decide⟩

/-! A small machine with one gateway of each kind, two contexts, hardwired enables and fixed priority
bits, in the middle of its work: source 1 is pending, source 2 in service, source 3 idle with two counted
edges, one change of `eip(0)` not yet delivered. -/

/-- Its configuration. -/
def smallConfig : Config where
  base := 0x1000
  nsrc := 3
  nctx := 2
  prioRwMask := ⟨0x6, []⟩
  prioFixed := ⟨0, [(3, 1)]⟩
  thrRwMask := ⟨0x7, []⟩
  thrFixed := ⟨0, [(1, 8)]⟩
  ieHard0 := ⟨⟨false, []⟩, [(1, ⟨false, [(2, true)]⟩)]⟩
  ieHard1 := ⟨⟨false, []⟩, [(0, ⟨false, [(3, true)]⟩)]⟩
  gwKind := ⟨.level, [(2, .edgeIgnore), (3, .edgeCount)]⟩
  gwCountMax := ⟨1, [(3, 2)]⟩
  ctxMap := ⟨.other, [(0, .hart 0 .machine), (1, .hart 0 .supervisor)]⟩
  claimSkipsPrio0 := true
  reservedAccess := .refuse

/-- Its state. -/
def small : State where
  cfg := smallConfig
  prio := ⟨0, [(1, 4), (2, 2), (3, 1)]⟩
  ip := ⟨false, [(1, true)]⟩
  ie := ⟨⟨false, []⟩, [(0, ⟨false, [(1, true), (2, true), (3, true)]⟩)]⟩
  thr := ⟨0, [(0, 2), (1, 8)]⟩
  gwBusy := ⟨false, [(1, true), (2, true)]⟩
  gwCount := ⟨0, [(3, 2)]⟩
  notif := ⟨false, []⟩
  nq := ⟨[], [(0, [true])]⟩
  sig := ⟨false, [(1, true)]⟩
  rdata := none
  todo := []
  seq := 0

theorem small_source (n : Nat) (h : 1 ≤ n) (h' : n ≤ 3) : n = 1 ∨ n = 2 ∨ n = 3 := by omega

theorem small_hasSource (n : Nat) (h : small.hasSource n = true) : n = 1 ∨ n = 2 ∨ n = 3 := by
  simp only [State.hasSource, Bool.and_eq_true, decide_eq_true_eq] at h
  exact small_source n h.1 h.2

theorem small_hasContext (c : Nat) (h : small.hasContext c = true) : c = 0 ∨ c = 1 := by
  simp only [State.hasContext, decide_eq_true_eq] at h
  have h : c < 2 := h
  omega

theorem witness_Config_Wf : smallConfig.Wf where
  nsrc_range := by decide
  nctx_range := by decide
  base_aligned := by decide
  prio_disjoint n h h' := by rcases small_source n h h' with rfl | rfl | rfl <;> decide
  thr_disjoint c h := by
    have h : c < 2 := h
    interval_cases c <;> decide
  hard_disjoint c n h h1 h2 := by
    have h : c < 2 := h
    rcases small_source n h1 h2 with rfl | rfl | rfl <;> interval_cases c <;> decide
  count_max_pos n h h' _ := by rcases small_source n h h' with rfl | rfl | rfl <;> decide
  prioFixed_wf := by decide
  thrFixed_wf := by decide
  ieHard1_wf := by decide

/-- Of StepKeepsInvariants, EveryEipChangeIsDelivered and EnableReadBackKeepsHardwiredBits. -/
theorem witness_Inv : small.Inv where
  cfg := witness_Config_Wf
  prio_legal n h := by rcases small_hasSource n h with rfl | rfl | rfl <;> decide
  thr_legal c h := by rcases small_hasContext c h with rfl | rfl <;> decide
  ie_hard0 c n h h' := by
    rcases small_hasContext c h with rfl | rfl <;> rcases small_hasSource n h' with rfl | rfl | rfl <;>
      decide
  ie_hard1 c n h h' := by
    rcases small_hasContext c h with rfl | rfl <;> rcases small_hasSource n h' with rfl | rfl | rfl <;>
      decide
  count_max n h := by
    have h : small.hasSource n = true := by
      simp only [State.counts, Bool.and_eq_true] at h
      exact h.1
    rcases small_hasSource n h with rfl | rfl | rfl <;> decide
  nq_changes c h := by rcases small_hasContext c h with rfl | rfl <;> decide
  nq_last c h := by rcases small_hasContext c h with rfl | rfl <;> decide

theorem witness_Canonical : small.Canonical := by constructor <;> decide
/-- Something is left to do: a counted edge to forward and a change to deliver. -/
theorem witness_EveryEipChangeIsDelivered : small.todo = [] ∧ small.atRest = false := by decide
theorem witness_RepeatedOperationsChangeNothing :
    exec (.priorityWr 1 7) small = .next (small.setPrio 1 6) ∧
      ∀ c, Instr.priorityWr 1 7 ≠ .claim c := ⟨rfl, fun _ h => Instr.noConfusion h⟩
theorem witness_PriorityBitsCanBeDiscovered :
    1 ≤ 3 ∧ 3 ≤ small.cfg.nsrc ∧
      (7 : Word) &&& ~~~(small.cfg.prioRwMask.get 3) = small.cfg.prioFixed.get 3 := by decide
theorem witness_EnableReadBackKeepsHardwiredBits : 1 < small.cfg.nctx := by decide
theorem witness_BeatsIsStrictTotalOrder :
    small.hasSource 1 = true ∧ small.hasSource 3 = true ∧ small.beats 1 2 = true ∧
      small.beats 2 3 = true := by decide
theorem witness_ClaimIgnoresThreshold :
    small.ipAt 1 = true ∧ small.ieAt 0 1 = true ∧ small.thrAt 0 < small.prioAt 1 := by decide
theorem witness_RacingClaimsReturnDifferentSources :
    small.cfg.nsrc ≤ 1023 ∧ exec (.claim 0) small = .next (small.claimed 1) ∧
    (small.claimed 1).rdata = some 1 ∧ (1 : Word) ≠ 0 ∧
    exec (.claim 1) (small.claimed 1) = .next ((small.claimed 1).claimed 0) :=
  ⟨by decide, rfl, rfl, by decide, rfl⟩
/-- The second clause at the empty set, the third at threshold 0. -/
theorem witness_EipIsSomeActiveSource :
    (∀ n, n ≤ 3 → small.ipAt n = true → small.ieAt 1 n = false) ∧
    ((small.setThr 0 0).thrAt 0 = 0 ∧ small.ipAt 1 = true ∧ small.ieAt 0 1 = true ∧
      small.prioAt 1 ≠ 0) := by decide
theorem witness_EipAfterClaim :
    exec (.claim 0) small = .next (small.claimed 1) ∧ small.hasContext 0 = true := ⟨rfl, by decide⟩
theorem witness_ContextsAreIndependent : (1 : Nat) ≠ 0 ∧ small.eip 0 = true := by decide

theorem witness_LevelGatewayForwards :
    ((small.setBusy 1 false).setTodo [.agent (.gwLevel 1)]).todo = [.agent (.gwLevel 1)] ∧
    1 ≤ 1 ∧ 1 ≤ small.cfg.nsrc ∧ small.cfg.gwKind.get 1 = .level ∧
    (small.setBusy 1 false).gwBusy.get 1 = false ∧ small.sig.get 1 = true := by decide
/-- An idle gateway, a busy counting one (its counter full) and a busy one that does not count. -/
theorem witness_EdgeGatewayForwardsCountsOrIgnores :
    (small.setTodo [.env (.edge 3)]).todo = [.env (.edge 3)] ∧ 3 ≤ small.cfg.nsrc ∧
    small.cfg.gwKind.get 3 = .edgeCount ∧ small.gwBusy.get 3 = false ∧
    (small.setBusy 3 true).gwBusy.get 3 = true ∧ small.gwCount.get 3 = small.cfg.gwCountMax.get 3 ∧
    small.cfg.gwKind.get 2 = .edgeIgnore ∧ small.gwBusy.get 2 = true := by decide
theorem witness_CountingGatewayForwardsCountedEdge :
    (small.setTodo [.agent (.gwCounted 3)]).todo = [.agent (.gwCounted 3)] ∧ 3 ≤ small.cfg.nsrc ∧
    small.cfg.gwKind.get 3 = .edgeCount ∧ small.gwBusy.get 3 = false ∧ 0 < small.gwCount.get 3 := by
  decide
theorem witness_EnvironmentStepsAreNeverRefused :
    (small.setTodo [.env (.sig 1 false)]).todo = [.env (.sig 1 false)] ∧ 1 ≤ small.cfg.nsrc ∧
    (small.setTodo [.env (.msi 1)]).todo = [.env (.msi 1)] ∧ small.cfg.gwKind.get 1 = .level := by
  decide
theorem witness_DisabledAgentStepsArePassedOver :
    (small.setTodo [.agent (.notify 0 2)]).todo = [.agent (.notify 0 2)] ∧
    (small.setTodo [.agent (.notify 0 2)]).agentEnabled (.notify 0 2) = false := by decide
theorem witness_NotifyDeliversQueuedChanges :
    (small.setTodo [.agent (.notify 0 1)]).todo = [.agent (.notify 0 1)] ∧ 0 < small.cfg.nctx ∧
    1 ≤ 1 ∧ 1 ≤ (small.nq.get 0).length := by decide
theorem witness_NotificationIsMeipOrSeip :
    (0 < small.cfg.nctx ∧ small.cfg.ctxMap.get 0 = .hart 0 .machine ∧
      ∀ d, d < small.cfg.nctx → small.cfg.ctxMap.get d = .hart 0 .machine → d = 0) ∧
    (1 < small.cfg.nctx ∧ small.cfg.ctxMap.get 1 = .hart 0 .supervisor ∧
      ∀ d, d < small.cfg.nctx → small.cfg.ctxMap.get d = .hart 0 .supervisor → d = 1) := by decide

/-- The small machine with the claim by context 0 waiting on the bus. -/
def claiming : State := small.setTodo [.bus ⟨.load, 0x201004, 4, 0⟩]
/-- The small machine with the completion of source 2 by context 0 waiting on the bus. -/
def completing : State := small.setTodo [.bus ⟨.store, 0x201004, 4, 2⟩]
/-- The small machine with the priority, an enable word and a threshold about to be written. -/
def writing : State := small.setTodo [.bus ⟨.store, 0x1004, 4, 2⟩]

/-- Of QueueIsTheHistoryOfEip as well: the claim makes `eip(0)` fall. -/
theorem witness_PendingBitClearedOnlyByClaim :
    step claiming = .next (after (step claiming) small) ∧ claiming.ipAt 1 = true ∧
    (after (step claiming) small).ipAt 1 = false ∧ (after (step claiming) small).eip 0 = false :=
  ⟨rfl, by decide, by decide, by decide⟩
/-- Of SourceLifeCycle as well: source 2 leaves service, and the counted edge of source 3 is forwarded. -/
theorem witness_GatewayForwardsOnlyWhenFreed :
    (step completing = .next (after (step completing) small) ∧ completing.busyAt 2 = true ∧
      (after (step completing) small).busyAt 2 = false) ∧
    (small.ipAt 3 = false ∧ small.busyAt 3 = false ∧
      (after (step (small.setTodo [.agent (.gwCounted 3)])) small).ipAt 3 = true ∧
      (after (step (small.setTodo [.agent (.gwCounted 3)])) small).busyAt 3 = true) :=
  ⟨⟨rfl, by decide, by decide⟩, by decide⟩
/-- After the claim of source 1 by context 0; a read of the first pending word arrives. -/
def claims1 : State := (after (step claiming) small).setTodo [.bus ⟨.load, 0x2000, 4, 0⟩]
/-- After that read; an edge of source 3 arrives. -/
def claims2 : State := (after (step claims1) small).setTodo [.env (.edge 3)]
/-- After that edge, which is forwarded by GW.EDGE; a second claim by context 0 arrives. -/
def claims3 : State := (after (step claims2) small).setTodo [.bus ⟨.load, 0x201004, 4, 0⟩]
/-- The run of these states, to the second claim's result. -/
def claimsRun : Nat → State
  | 0 => claiming
  | 1 => claims1
  | 2 => claims2
  | 3 => claims3
  | _ => (after (step claims3) small).setTodo []
/-- The second clause with `k = 3`: the pending bit of source 1 stays clear between the claims. -/
theorem witness_RacingClaimsReturnDifferentSources_between :
    claiming.cfg.nsrc ≤ 1023 ∧ claiming.nextIs (.claim 0) ∧ claims1.rdata = some 1 ∧
    claims1.ipAt 1 = false ∧ claims2.ipAt 1 = false ∧ claims3.ipAt 1 = false ∧
    claims3.nextIs (.claim 0) ∧ (claimsRun 4).rdata = some 3 ∧
    ∀ i, i ≤ 3 → ∃ t l, step (claimsRun i) = .next t ∧ claimsRun (i + 1) = t.setTodo l := by
  refine ⟨by decide, ⟨_, _, rfl, rfl⟩, by decide, by decide, by decide, by decide, ⟨_, _, rfl, rfl⟩,
    by decide, fun i hi => ?_⟩
  match i, hi with
  | 0, _ => exact ⟨after (step claiming) small, [.bus ⟨.load, 0x2000, 4, 0⟩], rfl, rfl⟩
  | 1, _ => exact ⟨after (step claims1) small, [.env (.edge 3)], rfl, rfl⟩
  | 2, _ => exact ⟨after (step claims2) small, [.bus ⟨.load, 0x201004, 4, 0⟩], rfl, rfl⟩
  | 3, _ => exact ⟨after (step claims3) small, [], rfl, rfl⟩
/-- A write of a priority, of an enable word and of a threshold, each of which changes its register. -/
theorem witness_RegistersChangeOnlyByTheirWrites :
    step writing = .next (after (step writing) small) ∧
    (after (step writing) small).prioAt 1 ≠ writing.prioAt 1 ∧
    (after (step (small.setTodo [.bus ⟨.store, 0x3000, 4, 0⟩])) small).ieAt 0 1 ≠ small.ieAt 0 1 ∧
    (after (step (small.setTodo [.bus ⟨.store, 0x201000, 4, 7⟩])) small).thrAt 0 ≠ small.thrAt 0 :=
  ⟨rfl, by decide, by decide, by decide⟩
/-- The completion of source 2, which is in service, where source 1 is pending and its gateway busy. -/
theorem witness_PendingSourceHasBusyGateway :
    completing.PendingBusy ∧ step completing = .next (after (step completing) small) ∧
    ∀ c v, completing.nextIs (.complete c v) → completing.ipAt v.toNat = false := by
  refine ⟨fun n h => ?_, rfl, ?_⟩
  · have hs : small.hasSource n = true := by
      have h : small.ipAt n = true := h
      simp only [State.ipAt, Bool.and_eq_true] at h
      exact h.1
    rcases small_hasSource n hs with rfl | rfl | rfl
    · decide
    · decide
    · exact absurd h (by decide)
  · rintro c v ⟨b, rest, h1, h2⟩
    cases h1
    have e : fetch completing.cfg ⟨.store, 0x201004, 4, 2⟩ = .next (.complete 0 2) := by rfl
    rw [e] at h2
    cases h2
    decide

/-! A run in which reads keep arriving for ever: the level of source 1 is asserted, one edge of source 3 is
counted, two changes of `eip(0)` wait to be delivered, and a read of the first pending word arrives at
every step from the fourth on. -/

/-- Its first state, before anything is scheduled. -/
def run0 : State :=
  { small with
    ip := ⟨false, []⟩, gwBusy := ⟨false, []⟩, gwCount := ⟨0, [(3, 1)]⟩, nq := ⟨[], [(0, [true, false])]⟩,
    ie := ⟨⟨false, []⟩, [(0, ⟨false, [(3, true)]⟩)]⟩, rdata := some 0xA }
/-- After GW.LEVEL 1. -/
def run1 : State := run0.forward 1
/-- After GW.COUNTED 3. -/
def run2 : State := (run1.forward 3).setCount 3 0
/-- After NOTIFY 0 with both changes; a read of the first pending word leaves it as it is. -/
def run3 : State := run2.deliver 0 2

/-- The run. -/
def pollingRun : Nat → State
  | 0 => run0.setTodo [.agent (.gwLevel 1)]
  | 1 => run1.setTodo [.agent (.gwCounted 3)]
  | 2 => run2.setTodo [.agent (.notify 0 2)]
  | _ + 3 => run3.setTodo [.bus ⟨.load, 0x2000, 4, 0⟩]

theorem pollingRun_quiet (j : Nat) :
    (∀ n, (pollingRun (j + 3)).levelEnabled n = false) ∧
    (∀ n, (pollingRun (j + 3)).countedEnabled n = false) ∧
    ∀ c, (pollingRun (j + 3)).nqAt c = [] := by
  have hs : ∀ n, run3.hasSource n = true → n = 1 ∨ n = 2 ∨ n = 3 := small_hasSource
  have hc : ∀ c, run3.hasContext c = true → c = 0 ∨ c = 1 := small_hasContext
  refine ⟨fun n => ?_, fun n => ?_, fun c => ?_⟩
  · show run3.levelEnabled n = false
    by_cases h : run3.hasSource n = true
    · rcases hs n h with rfl | rfl | rfl <;> decide
    · simp [State.levelEnabled, h]
  · show run3.countedEnabled n = false
    by_cases h : run3.hasSource n = true
    · rcases hs n h with rfl | rfl | rfl <;> decide
    · simp [State.countedEnabled, h]
  · show run3.nqAt c = []
    by_cases h : run3.hasContext c = true
    · rcases hc c h with rfl | rfl <;> decide
    · simp [State.nqAt, h]

theorem pollingRun_step_0 : step (pollingRun 0) = .next run1 :=
  congrArg Host.Outcome.next (a₂ := run1) (by decide)
theorem pollingRun_step_1 : step (pollingRun 1) = .next run2 :=
  congrArg Host.Outcome.next (a₂ := run2) (by decide)
theorem pollingRun_step_2 : step (pollingRun 2) = .next run3 :=
  congrArg Host.Outcome.next (a₂ := run3) (by decide)
theorem pollingRun_step_3 (j : Nat) : step (pollingRun (j + 3)) = .next run3 := by
  have e : step (pollingRun 3) = .next (after (step (pollingRun 3)) run0) := by rfl
  have h : after (step (pollingRun 3)) run0 = run3 := by decide
  show step (pollingRun 3) = .next run3
  rw [e, h]

theorem witness_FairRun : FairRun pollingRun where
  steps i :=
    match i with
    | 0 => ⟨run1, [.agent (.gwCounted 3)], pollingRun_step_0, rfl⟩
    | 1 => ⟨run2, [.agent (.notify 0 2)], pollingRun_step_1, rfl⟩
    | 2 => ⟨run3, [.bus ⟨.load, 0x2000, 4, 0⟩], pollingRun_step_2, rfl⟩
    | j + 3 => ⟨run3, [.bus ⟨.load, 0x2000, 4, 0⟩], pollingRun_step_3 j, rfl⟩
  levelFair n i h := by
    have := h (i + 3) (by omega)
    rw [(pollingRun_quiet i).1 n] at this
    cases this
  countedFair n i h := by
    have := h (i + 3) (by omega)
    rw [(pollingRun_quiet i).2.1 n] at this
    cases this
  notifyFair c i h := absurd ((pollingRun_quiet i).2.2 c) (h (i + 3) (by omega))

/-- Both clauses from the first state of the run: the level of source 1, the counted edge of source 3. -/
theorem witness_FairRunForwardsRequests :
    (1 ≤ 1 ∧ 1 ≤ (pollingRun 0).cfg.nsrc ∧ (pollingRun 0).busyAt 1 = false ∧
      (pollingRun 0).cfg.gwKind.get 1 = .level ∧ ∀ j, 0 ≤ j → (pollingRun j).sigAt 1 = true) ∧
    (3 ≤ (pollingRun 0).cfg.nsrc ∧ (pollingRun 0).busyAt 3 = false ∧
      (pollingRun 0).cfg.gwKind.get 3 = .edgeCount ∧ 0 < (pollingRun 0).countAt 3) := by
  refine ⟨⟨by decide, by decide, by decide, by decide, fun j _ => ?_⟩, by decide⟩
  match j with
  | 0 => decide
  | 1 => decide
  | 2 => decide
  | _ + 3 => rfl

/-- From the first state of the run, which has two changes to deliver to context 0. -/
theorem witness_FairRunDeliversEip :
    (pollingRun 0).Inv ∧ 0 < (pollingRun 0).cfg.nctx ∧
      ∀ j, 0 ≤ j → (pollingRun j).eip 0 = (pollingRun 0).eip 0 := by
  refine ⟨?_, by decide, fun j _ => ?_⟩
  · constructor
    · exact witness_Config_Wf
    · exact witness_Inv.prio_legal
    · exact witness_Inv.thr_legal
    · intro c n h h' _
      rcases small_hasContext c h with rfl | rfl <;>
        rcases small_hasSource n h' with rfl | rfl | rfl <;> first | decide | contradiction
    · intro c n h h' h1
      rcases small_hasContext c h with rfl | rfl <;>
        rcases small_hasSource n h' with rfl | rfl | rfl <;> first | decide | exact absurd h1 (by decide)
    · intro n h
      have h : small.hasSource n = true := by
        simp only [State.counts, Bool.and_eq_true] at h
        exact h.1
      rcases small_hasSource n h with rfl | rfl | rfl <;> decide
    · intro c h
      rcases small_hasContext c h with rfl | rfl <;> decide
    · intro c h
      rcases small_hasContext c h with rfl | rfl <;> decide
  · match j with
    | 0 => decide
    | 1 => decide
    | 2 => decide
    | _ + 3 => rfl

/-- Claims by context 0 that keep arriving. -/
theorem witness_EndlessTrafficHasFairRun :
    ∀ (_ : Nat) (u : State), u.cfg = small.cfg →
      ∃ t, runEvent (.bus ⟨.load, 0x201004, 4, 0⟩) u = .next t := by
  intro _ u hu
  have hf : fetch u.cfg ⟨.load, 0x201004, 4, 0⟩ = .next (.claim 0) := by rw [hu]; rfl
  exact ⟨noteEip u (if u.hasContext 0 then u.claimed (u.best 0) else u.respond 0), by
    simp only [runEvent, runBus, hf]; rfl⟩

/-- Log entry 32: an edge, a level and a message that name no implemented source. -/
theorem test_env_absent_source :
    runEnv (.edge 0) T = T ∧ runEnv (.sig 41 true) T = T ∧ runEnv (.msi 41) T = T := by decide
/-- Log entry 33: no context of T stands for hart 0 in supervisor mode. -/
theorem test_seip_unmapped : ((T.setNotif 0 true).setNotif 1 true).seip 0 = false := by decide

end Sys2Proof.Tests
end

section
/-! PROOFS. The scope: an access to a reserved offset, and endless traffic from outside. -/

namespace Sys2Proof.Proofs.Scope

open Sys2Proof.Machine

/-! ## Reserved offsets -/

/-- The four reserved classes share one meaning, which sees nothing of the offset. -/
theorem exec_of_isReserved {i : Instr} (h : isReserved i = true) (s : State) :
    exec i s = reservedAccess (accessFor i) s := by
  cases i with
  | reservedSrc0 a => rfl
  | reservedGap1 cc w a => rfl
  | reservedGap2 cc w a => rfl
  | reservedCtx c r a => rfl
  | _ => cases h

theorem reservedAccess_of_refuse {s : State} (h : s.cfg.reservedAccess = .refuse) (a : Access) :
    reservedAccess a s = .refused .reserved := by
  simp only [reservedAccess, h]

theorem reservedAccess_of_readZeroIgnoreWrite {s : State}
    (h : s.cfg.reservedAccess = .readZeroIgnoreWrite) (a : Access) :
    reservedAccess a s = .next (if a = .read then s.respond 0 else s) := by
  cases a with
  | read => simp only [reservedAccess, h, if_true]
  | write v => simp only [reservedAccess, h, reduceCtorEq, if_false]

/-- Settles O23: the four classes are one access to a reserved offset, and each value of the parameter
gives that access its meaning. -/
theorem reservedAccessFollowsParameter : Obligations.ReservedAccessFollowsParameter := by
  intro s i hi
  rw [exec_of_isReserved hi]
  exact ⟨fun h => reservedAccess_of_refuse h _, fun h => reservedAccess_of_readZeroIgnoreWrite h _⟩

/-! ## Single steps of a run -/

/-- No step changes the implementation parameters (10_state.md, head). -/
theorem step_keeps_cfg {s t : State} (h : step s = .next t) : t.cfg = s.cfg := by
  obtain ⟨r, u, hr, rfl, hu⟩ := step_update s t h
  have hrs : r.cfg = s.cfg := by rw [hr]
  have hur : u.cfg = r.cfg := by
    rcases hu with rfl | ⟨_, rfl⟩ | ⟨_, _, _, _, rfl⟩ | ⟨_, _, _, _, _, rfl⟩ | ⟨_, _, _, _, rfl⟩ |
      ⟨_, _, _, _, rfl⟩ | ⟨_, _, _, _, rfl⟩ | ⟨_, _, _, rfl⟩ | ⟨_, _, _, _, _, rfl⟩ |
      ⟨_, _, _, _, rfl⟩ | ⟨_, _, _, rfl⟩ | ⟨_, _, _, rfl⟩ <;> rfl
  rw [noteEip_cfg, hur, hrs]

theorem step_of_todo {s : State} {e : Event} {l : List Event} (h : s.todo = e :: l) :
    step s = runEvent e (s.setTodo l) := by
  simp only [step, h]

/-- A queue that is not empty can always deliver its oldest change. -/
theorem notifyEnabled_one {s : State} {c : Nat} (h : s.nqAt c ≠ []) : s.notifyEnabled c 1 = true := by
  simpa [State.notifyEnabled, Nat.one_le_iff_ne_zero] using h

/-- The state after one step; the state itself where the machine stops. -/
def stateAfter (s : State) : State :=
  match step s with
  | .next t => t
  | .fault _ => s
  | .refused _ => s

theorem stateAfter_of_step {s t : State} (h : step s = .next t) : stateAfter s = t := by
  simp only [stateAfter, h]

theorem stateAfter_cfg (s : State) : (stateAfter s).cfg = s.cfg := by
  cases h : step s with
  | next t => rw [stateAfter_of_step h, step_keeps_cfg h]
  | fault f => simp only [stateAfter, h]
  | refused r => simp only [stateAfter, h]

/-! ## The run that takes a given sequence of steps in its order -/

/-- From `s`, the steps `e 0`, `e 1`, ... are scheduled one at a time, each right before its turn. -/
def orderedRun (s : State) (e : Nat → Event) : Nat → State
  | 0 => s.setTodo [e 0]
  | j + 1 => (stateAfter (orderedRun s e j)).setTodo [e (j + 1)]

theorem orderedRun_todo (s : State) (e : Nat → Event) (j : Nat) : (orderedRun s e j).todo = [e j] := by
  cases j with
  | zero => rfl
  | succ j => rfl

theorem orderedRun_nextEvent (s : State) (e : Nat → Event) (j : Nat) :
    (orderedRun s e j).nextEvent = some (e j) := by
  simp only [State.nextEvent, orderedRun_todo]

theorem orderedRun_cfg (s : State) (e : Nat → Event) (j : Nat) : (orderedRun s e j).cfg = s.cfg := by
  induction j with
  | zero => rfl
  | succ j ih => rw [orderedRun, State.setTodo_cfg, stateAfter_cfg, ih]

theorem orderedRun_takes {s : State} {e : Nat → Event} {j : Nat} {a : AgentStep}
    (he : e j = .agent a) (ha : (orderedRun s e j).agentEnabled a = true) :
    (orderedRun s e j).takes a :=
  ⟨he ▸ orderedRun_nextEvent s e j, ha⟩

/-- Where the machine answers each of the steps, the sequence is a run of it (R16, R60). -/
theorem orderedRun_steps {s : State} {e : Nat → Event}
    (answered : ∀ j u, u.cfg = s.cfg → ∃ t, runEvent (e j) u = .next t) (j : Nat) :
    ∃ t l, step (orderedRun s e j) = .next t ∧ orderedRun s e (j + 1) = t.setTodo l := by
  obtain ⟨t, ht⟩ := answered j ((orderedRun s e j).setTodo []) (orderedRun_cfg s e j)
  have hstep : step (orderedRun s e j) = .next t := by rw [step_of_todo (orderedRun_todo s e j), ht]
  exact ⟨t, [e (j + 1)], hstep, by rw [orderedRun, stateAfter_of_step hstep]⟩

/-! ## Every step of the PLIC's own gets its turn again and again -/

/-- The steps that R170 and R183 ask to be taken, by kind and number; a notification delivers the oldest
change only. -/
def ownStep : Nat → Nat → AgentStep
  | 0, n => .gwLevel n
  | 1, n => .gwCounted n
  | _ + 2, c => .notify c 1

/-- Whose turn it is: the number of the turn is read as a pair whose second part names a step, so each
step stands behind infinitely many numbers. -/
def ownTurn (i : Nat) : AgentStep := ownStep i.unpair.2.unpair.1 i.unpair.2.unpair.2

theorem ownTurn_recurs (k n i : Nat) : ∃ j, i ≤ j ∧ ownTurn j = ownStep k n :=
  ⟨Nat.pair i (Nat.pair k n), Nat.left_le_pair _ _, by simp only [ownTurn, Nat.unpair_pair]⟩

/-- A run in which each of these steps has its turn again and again is fair: a step that stays enabled is
enabled when its turn comes (R170, R183). -/
theorem orderedRun_fair {s : State} {e : Nat → Event}
    (answered : ∀ j u, u.cfg = s.cfg → ∃ t, runEvent (e j) u = .next t)
    (recurs : ∀ k n i, ∃ j, i ≤ j ∧ e j = .agent (ownStep k n)) : FairRun (orderedRun s e) where
  steps := orderedRun_steps answered
  levelFair n i enabled := by
    obtain ⟨j, hij, hj⟩ := recurs 0 n i
    exact ⟨j, hij, orderedRun_takes hj (enabled j hij)⟩
  countedFair n i enabled := by
    obtain ⟨j, hij, hj⟩ := recurs 1 n i
    exact ⟨j, hij, orderedRun_takes hj (enabled j hij)⟩
  notifyFair c i waiting := by
    obtain ⟨j, hij, hj⟩ := recurs 2 c i
    exact ⟨j, 1, hij, orderedRun_takes hj (notifyEnabled_one (waiting j hij))⟩

/-! ## Traffic from outside, with a step of the PLIC's own after each of its steps -/

/-- The traffic `ev` at the even numbers, the turns of the PLIC's own steps at the odd ones. -/
def interleaved (ev : Nat → Event) (j : Nat) : Event :=
  if j % 2 = 0 then ev (j / 2) else .agent (ownTurn (j / 2))

theorem interleaved_even (ev : Nat → Event) (i : Nat) : interleaved ev (2 * i) = ev i := by
  simp [interleaved]

theorem interleaved_odd (ev : Nat → Event) (i : Nat) :
    interleaved ev (2 * i + 1) = .agent (ownTurn i) := by
  have hdiv : (2 * i + 1) / 2 = i := by omega
  simp [interleaved, hdiv]

theorem interleaved_answered {s : State} {ev : Nat → Event}
    (answered : ∀ i u, u.cfg = s.cfg → ∃ t, runEvent (ev i) u = .next t) (j : Nat) (u : State)
    (hu : u.cfg = s.cfg) : ∃ t, runEvent (interleaved ev j) u = .next t := by
  unfold interleaved
  split
  case isTrue => exact answered _ u hu
  case isFalse => exact ⟨_, rfl⟩

theorem interleaved_recurs (ev : Nat → Event) (k n i : Nat) :
    ∃ j, i ≤ j ∧ interleaved ev j = .agent (ownStep k n) := by
  obtain ⟨j, hij, hj⟩ := ownTurn_recurs k n i
  exact ⟨2 * j + 1, by omega, by rw [interleaved_odd, hj]⟩

/-- Settles O54, by the run that schedules after each step of the traffic one of the PLIC's own, each of
these coming round again and again. -/
theorem endlessTrafficHasFairRun : Obligations.EndlessTrafficHasFairRun := by
  intro s ev answered
  refine ⟨orderedRun s (interleaved ev),
    orderedRun_fair (interleaved_answered answered) (interleaved_recurs ev), rfl, fun i => ?_,
    fun i => .inr ⟨ownTurn i, ?_⟩⟩
  · rw [orderedRun_nextEvent, interleaved_even]
  · rw [orderedRun_nextEvent, interleaved_odd]

end Sys2Proof.Proofs.Scope
end

section
/-! PROOFS. The state: what one step does to each bank of registers, the invariants of R36 and the reset
state, and the region as what the reads of the registers return. -/

namespace Sys2Proof.Proofs.Banks

open Sys2Proof.Machine

/-! ## Which registers exist -/

theorem hasSource_iff {s : State} {n : Nat} : s.hasSource n = true ↔ 1 ≤ n ∧ n ≤ s.cfg.nsrc := by
  simp only [State.hasSource, Bool.and_eq_true, decide_eq_true_eq]

theorem hasContext_iff {s : State} {c : Nat} : s.hasContext c = true ↔ c < s.cfg.nctx := by
  simp only [State.hasContext, decide_eq_true_eq]

/-! ## The step as one named effect -/

/-- The effects of `step_update` by name, as updates of the state `s` before the step; the changes of
`eip` are not yet queued, and the schedule is left out. -/
inductive Effect (s : State) : State → Prop
  | unchanged : Effect s s
  | respond (v : Word) : Effect s (s.respond v)
  | writePriority {n : Nat} {v : Word} (next : s.nextIs (.priorityWr n v))
      (source : s.hasSource n = true) : Effect s (s.setPrio n (s.legalPrio n v))
  | writeEnable {c w : Nat} {v : Word} (next : s.nextIs (.enableWr c w v))
      (context : s.hasContext c = true) : Effect s (s.setIeRow c (s.enableRow c w v 32))
  | writeThreshold {c : Nat} {v : Word} (next : s.nextIs (.thresholdWr c v))
      (context : s.hasContext c = true) : Effect s (s.setThr c (s.legalThr c v))
  | claim {c : Nat} (next : s.nextIs (.claim c)) (context : s.hasContext c = true)
      (found : s.best c ≠ 0) :
      Effect s ((s.setIp (s.best c) false).respond (idWord (s.best c)))
  | complete {c : Nat} {v : Word} (next : s.nextIs (.complete c v))
      (enabled : s.ieAt c v.toNat = true) : Effect s (s.setBusy v.toNat false)
  | forward {n : Nat} (source : s.hasSource n = true) (idle : s.busyAt n = false) :
      Effect s (s.forward n)
  | forwardCounted {n : Nat} (source : s.hasSource n = true) (idle : s.busyAt n = false)
      (counting : s.kindOf n = .edgeCount) (waiting : 0 < s.countAt n) :
      Effect s ((s.forward n).setCount n (s.countAt n - 1))
  | countEdge {n : Nat} (source : s.hasSource n = true) (busy : s.busyAt n = true)
      (counting : s.kindOf n = .edgeCount) :
      Effect s (s.setCount n (min (s.countAt n + 1) (s.cfg.gwCountMax.get n)))
  | setLevel {n : Nat} (l : Bool) (source : s.hasSource n = true) : Effect s (s.setSig n l)
  | deliver {c k : Nat} (enabled : s.notifyEnabled c k = true) : Effect s (s.deliver c k)

theorem queueChanges_schedule (s u : State) (l : List Event) (j k : Nat) :
    queueChanges s { u with todo := l, seq := j } k = queueChanges s u k := by
  induction k with
  | zero => rfl
  | succ k ih =>
    simp only [queueChanges, ih]
    rfl

/-- Queuing the changes of `eip` does not look at the schedule. -/
theorem sameMachine_noteEip {s r u v : State} (hr : SameMachine s r) (hv : SameMachine u v) :
    SameMachine (noteEip s u) (noteEip r v) := by
  rw [← hr.noteEip_eq, hv]
  simp only [SameMachine, noteEip, queueChanges_schedule]

theorem sameMachine_best {s r : State} (h : SameMachine s r) (c : Nat) : r.best c = s.best c :=
  s.best_congr r c (by rw [h]) (fun _ => by rw [h]; rfl) (fun _ _ => by rw [h]; rfl)

/-- A step is one effect, after which the changes of `eip` are queued (R60, R182). -/
theorem step_effect {s t : State} (h : step s = .next t) :
    ∃ u, Effect s u ∧ SameMachine (noteEip s u) t := by
  obtain ⟨r, v, hr, rfl, hv⟩ := step_update s t h
  suffices ∃ u, Effect s u ∧ SameMachine u v from
    let ⟨u, hu, huv⟩ := this
    ⟨u, hu, sameMachine_noteEip hr huv⟩
  have hbest := sameMachine_best hr
  obtain ⟨l, k, rfl⟩ : ∃ l k, r = { s with todo := l, seq := k } := ⟨_, _, hr⟩
  rcases hv with rfl | ⟨v, rfl⟩ | ⟨n, v, next, source, rfl⟩ | ⟨c, w, v, next, context, rfl⟩ |
    ⟨c, v, next, context, rfl⟩ | ⟨c, next, context, found, rfl⟩ | ⟨c, v, next, enabled, rfl⟩ |
    ⟨n, source, idle, rfl⟩ | ⟨n, source, idle, counting, waiting, rfl⟩ |
    ⟨n, source, busy, counting, rfl⟩ | ⟨n, l, source, rfl⟩ | ⟨c, k, enabled, rfl⟩
  · exact ⟨_, .unchanged, rfl⟩
  · exact ⟨_, .respond v, rfl⟩
  · exact ⟨_, .writePriority next source, rfl⟩
  · exact ⟨_, .writeEnable next context, rfl⟩
  · exact ⟨_, .writeThreshold next context, rfl⟩
  · rw [hbest] at found ⊢
    exact ⟨_, .claim next context found, rfl⟩
  · exact ⟨_, .complete next enabled, rfl⟩
  · exact ⟨_, .forward source idle, rfl⟩
  · exact ⟨_, .forwardCounted source idle counting waiting, rfl⟩
  · exact ⟨_, .countEdge source busy counting, rfl⟩
  · exact ⟨_, .setLevel l source, rfl⟩
  · exact ⟨_, .deliver enabled, rfl⟩

/-! ## What one step does to each bank -/

/-- A priority is kept, or its own register is written with a legal value (R22, R103). -/
theorem step_prioAt {s t : State} (h : step s = .next t) (n : Nat) :
    t.prioAt n = s.prioAt n ∨
      ∃ v, s.nextIs (.priorityWr n v) ∧ t.prioAt n = s.legalPrio n v := by
  obtain ⟨u, effect, ht⟩ := step_effect h
  have htu : t.prioAt n = u.prioAt n := by rw [ht]; rfl
  rw [htu]
  cases effect with
  | @writePriority m v next source =>
    by_cases hm : n = m
    · subst hm
      exact .inr ⟨v, next, by simp [State.setPrio_prioAt, source]⟩
    · exact .inl (by simp [State.setPrio_prioAt, hm])
  | _ => exact .inl rfl

/-- A threshold is kept, or its own register is written with a legal value (R26, R132). -/
theorem step_thrAt {s t : State} (h : step s = .next t) (c : Nat) :
    t.thrAt c = s.thrAt c ∨
      ∃ v, s.nextIs (.thresholdWr c v) ∧ t.thrAt c = s.legalThr c v := by
  obtain ⟨u, effect, ht⟩ := step_effect h
  have htu : t.thrAt c = u.thrAt c := by rw [ht]; rfl
  rw [htu]
  cases effect with
  | @writeThreshold d v next context =>
    by_cases hd : c = d
    · subst hd
      exact .inr ⟨v, next, by simp [State.setThr_thrAt, context]⟩
    · exact .inl (by simp [State.setThr_thrAt, hd])
  | _ => exact .inl rfl

/-- The enable bits of a context after the write of one of its words (R122). -/
theorem enableWrite_ieAt (s : State) (c w : Nat) (v : Word) (d n : Nat) :
    (s.setIeRow c (s.enableRow c w v 32)).ieAt d n =
      if d = c ∧ n / 32 = w ∧ s.ieWritable c n = true then v.getLsbD (n % 32) else s.ieAt d n := by
  rw [State.setIeRow_ieAt]
  by_cases hd : d = c
  case neg => simp only [hd, false_and, if_false]
  subst hd
  rw [if_pos rfl, enableRow_get]
  by_cases hw : n / 32 = w ∧ s.ieWritable d n = true
  · obtain ⟨rfl, writable⟩ := hw
    have hlo : 32 * (n / 32) ≤ n := by omega
    have hhi : n < 32 * (n / 32) + 32 := by omega
    have hbit : n - 32 * (n / 32) = n % 32 := by omega
    rw [if_pos ⟨hlo, hhi, writable⟩, if_pos ⟨rfl, rfl, writable⟩, hbit]
    simp only [State.ieWritable, Bool.and_eq_true] at writable
    obtain ⟨context, source, _⟩ := writable
    rw [context, source, Bool.true_and, Bool.true_and]
  · have outside : ¬ (32 * w ≤ n ∧ n < 32 * w + 32 ∧ s.ieWritable d n = true) := by
      rintro ⟨hlo, hhi, writable⟩
      exact hw ⟨by omega, writable⟩
    rw [if_neg outside, if_neg (fun hd => hw hd.2)]
    rfl

/-- An enable bit is kept, or the word it lies in is written and the bit is read-write (R25, R122). -/
theorem step_ieAt {s t : State} (h : step s = .next t) (c n : Nat) :
    t.ieAt c n = s.ieAt c n ∨
      s.ieWritable c n = true ∧ ∃ v, s.nextIs (.enableWr c (n / 32) v) := by
  obtain ⟨u, effect, ht⟩ := step_effect h
  have htu : t.ieAt c n = u.ieAt c n := by rw [ht]; rfl
  rw [htu]
  cases effect with
  | @writeEnable d w v next _ =>
    rw [enableWrite_ieAt]
    by_cases hw : c = d ∧ n / 32 = w ∧ s.ieWritable d n = true
    · obtain ⟨rfl, rfl, writable⟩ := hw
      exact .inr ⟨writable, v, next⟩
    · exact .inl (if_neg hw)
  | _ => exact .inl rfl

/-- The gateway of `n` has forwarded a request: it was idle, and both bits are set (R162). -/
def Forwarded (s t : State) (n : Nat) : Prop :=
  s.busyAt n = false ∧ t.busyAt n = true ∧ t.ipAt n = true

/-- A request is forwarded for the named source only, by setting both its bits. -/
theorem forward_bits {s : State} {n : Nat} (source : s.hasSource n = true)
    (idle : s.busyAt n = false) (m : Nat) :
    ((s.forward n).ipAt m = s.ipAt m ∧ (s.forward n).busyAt m = s.busyAt m) ∨
      Forwarded s (s.forward n) m := by
  rw [Forwarded, forward_ipAt, forward_busyAt]
  by_cases hm : m = n
  · subst hm
    exact .inr ⟨idle, by simpa using source, by simpa using source⟩
  · exact .inl ⟨if_neg hm, if_neg hm⟩

/-- A source's pending and busy bits are kept, or its request is forwarded, or a claim returns it, or a
completion that its context enables frees its gateway (R142, R151, R162). -/
theorem step_request {s t : State} (h : step s = .next t) (n : Nat) :
    (t.ipAt n = s.ipAt n ∧ t.busyAt n = s.busyAt n) ∨ Forwarded s t n ∨
    (∃ c, s.nextIs (.claim c) ∧ s.best c = n ∧ t.rdata = some (idWord n) ∧
      t.ipAt n = false ∧ t.busyAt n = s.busyAt n) ∨
    (∃ c v, s.nextIs (.complete c v) ∧ v.toNat = n ∧ s.ieAt c n = true ∧
      t.ipAt n = s.ipAt n ∧ t.busyAt n = false) := by
  obtain ⟨u, effect, ht⟩ := step_effect h
  have hip : t.ipAt n = u.ipAt n := by rw [ht]; rfl
  have hbusy : t.busyAt n = u.busyAt n := by rw [ht]; rfl
  have hrdata : t.rdata = u.rdata := by rw [ht]; rfl
  rw [Forwarded, hip, hbusy, hrdata]
  cases effect with
  | @claim c next _ _ =>
    by_cases hn : n = s.best c
    · subst hn
      exact .inr (.inr (.inl ⟨c, next, rfl, rfl, by simp [State.setIp_ipAt], rfl⟩))
    · exact .inl ⟨by simp [State.setIp_ipAt, hn], rfl⟩
  | @complete c v next enabled =>
    by_cases hn : n = v.toNat
    · subst hn
      exact .inr (.inr (.inr ⟨c, v, next, rfl, enabled, rfl, by simp [State.setBusy_busyAt]⟩))
    · exact .inl ⟨rfl, by simp [State.setBusy_busyAt, hn]⟩
  | forward source idle => exact (forward_bits source idle n).imp_right .inl
  | forwardCounted source idle _ _ => exact (forward_bits source idle n).imp_right .inl
  | _ => exact .inl ⟨rfl, rfl⟩

/-- A pending counter does not rise above its bound (R32, R166). -/
theorem step_countAt {s t : State} (h : step s = .next t) (n : Nat) :
    t.countAt n ≤ max (s.countAt n) (s.cfg.gwCountMax.get n) := by
  obtain ⟨u, effect, ht⟩ := step_effect h
  have htu : t.countAt n = u.countAt n := by rw [ht]; rfl
  rw [htu]
  cases effect with
  | @forwardCounted m _ _ _ _ =>
    have keep : (s.forward m).countAt n = s.countAt n := rfl
    rw [State.setCount_countAt, keep]
    split
    case isTrue hm => rw [hm.1]; omega
    case isFalse => omega
  | @countEdge m _ _ _ =>
    rw [State.setCount_countAt]
    split
    case isTrue hm => rw [hm.1]; omega
    case isFalse => omega
  | _ => exact Nat.le_max_left _ _

/-! ## The queue of changes -/

/-- Delivering removes the `k` oldest changes, the last of which is then the notification (R182); every
other effect leaves queue and notification alone, which is `k = 0`. -/
theorem effect_queue {s u : State} (effect : Effect s u) (c : Nat) (hc : s.hasContext c = true) :
    ∃ k, k ≤ (s.nqAt c).length ∧ u.nqAt c = (s.nqAt c).drop k ∧
      u.notifAt c = ((s.nqAt c).take k).getLastD (s.notifAt c) := by
  cases effect with
  | @deliver d k enabled =>
    rw [State.deliver, State.setNq_nqAt, State.setNq_notifAt, State.setNotif_notifAt]
    by_cases hd : c = d
    · subst hd
      simp only [State.notifyEnabled, Bool.and_eq_true, decide_eq_true_eq] at enabled
      exact ⟨k, enabled.2, by simp [hc], by simp [hc]⟩
    · exact ⟨0, Nat.zero_le _, by simp [hd], by simp [hd]⟩
  | _ => exact ⟨0, Nat.zero_le _, rfl, rfl⟩

/-- Settles O40: an effect only delivers from the front of the queue, and what is queued after it is the
change of `eip`. -/
theorem queueIsTheHistoryOfEip : Obligations.QueueIsTheHistoryOfEip := by
  intro s t c h hc
  obtain ⟨u, effect, ht⟩ := step_effect h
  have hq : t.nqAt c = (noteEip s u).nqAt c := by rw [ht]; rfl
  have hnotif : t.notifAt c = u.notifAt c := by rw [ht]; rfl
  have heip : t.eip c = u.eip c := by rw [ht]; rfl
  have hcfg : u.cfg = s.cfg := by
    rw [← Scope.step_keeps_cfg h, ht]; rfl
  have hu : u.hasContext c = true := hasContext_iff.mpr (hcfg ▸ hc)
  obtain ⟨k, hk, hdrop, htake⟩ := effect_queue effect c (hasContext_iff.mpr hc)
  refine ⟨k, hk, ?_, hnotif.trans htake⟩
  rw [hq, noteEip_nqAt, heip, hdrop]
  by_cases he : u.eip c = s.eip c <;> simp [he, hu]

/-! ## Rules of the whole machine -/

/-- Settles O42: of all that a step can do to a source, only the claim that returns it clears its pending
bit. -/
theorem pendingBitClearedOnlyByClaim : Obligations.PendingBitClearedOnlyByClaim := by
  intro s t n h pending cleared
  rcases step_request h n with ⟨keep, _⟩ | ⟨_, _, set⟩ | ⟨c, next, best, rdata, _, _⟩ |
    ⟨_, _, _, _, _, keep, _⟩
  · simp [keep, pending] at cleared
  · simp [set] at cleared
  · exact ⟨c, next, best, rdata⟩
  · simp [keep, pending] at cleared

/-- Settles O45, bank by bank. -/
theorem registersChangeOnlyByTheirWrites : Obligations.RegistersChangeOnlyByTheirWrites := by
  intro s t h
  refine ⟨Scope.step_keeps_cfg h, fun n changed => ?_, fun c n changed => ?_, fun c changed => ?_⟩
  · obtain ⟨v, next, _⟩ := (step_prioAt h n).resolve_left changed
    exact ⟨v, next⟩
  · exact ((step_ieAt h c n).resolve_left changed).2
  · obtain ⟨v, next, _⟩ := (step_thrAt h c).resolve_left changed
    exact ⟨v, next⟩

/-- Settles O50: a source that is pending after the step was pending before it or has just been forwarded,
and only a completion that names it could have freed its gateway. -/
theorem pendingSourceHasBusyGateway : Obligations.PendingSourceHasBusyGateway := by
  intro s t busy h completed n pending
  rcases step_request h n with ⟨keepIp, keepBusy⟩ | ⟨_, set, _⟩ | ⟨_, _, _, _, cleared, _⟩ |
    ⟨c, v, next, rfl, _, keepIp, _⟩
  · rw [keepBusy]
    exact busy n (keepIp ▸ pending)
  · exact set
  · simp [cleared] at pending
  · simp [keepIp, completed c v next] at pending

/-! ## The invariants of R36 -/

/-- A run of changes cut in two: the second part follows the last value of the first (R33). -/
theorem changesFrom_append (b : Bool) (l m : List Bool) :
    changesFrom b (l ++ m) = (changesFrom b l && changesFrom (l.getLastD b) m) := by
  induction l generalizing b with
  | nil => rfl
  | cons x l ih =>
    simp only [List.cons_append, changesFrom, ih, List.getLastD_cons, Bool.and_assoc]

theorem getLastD_append (b : Bool) (l m : List Bool) :
    (l ++ m).getLastD b = m.getLastD (l.getLastD b) := by
  induction l generalizing b with
  | nil => rfl
  | cons x l ih => simp only [List.cons_append, List.getLastD_cons, ih]

/-- The queue stays a run of changes that ends in the present `eip`, whatever is delivered from its front
(R33, R182). -/
theorem step_keeps_queue {s t : State} {c : Nat} (h : step s = .next t) (hc : s.hasContext c = true)
    (changes : changesFrom (s.notifAt c) (s.nqAt c) = true)
    (last : (s.nqAt c).getLastD (s.notifAt c) = s.eip c) :
    changesFrom (t.notifAt c) (t.nqAt c) = true ∧ (t.nqAt c).getLastD (t.notifAt c) = t.eip c := by
  obtain ⟨k, _, hq, hnotif⟩ := queueIsTheHistoryOfEip s t c h (hasContext_iff.mp hc)
  rw [← List.take_append_drop k (s.nqAt c)] at changes last
  rw [changesFrom_append, Bool.and_eq_true] at changes
  rw [getLastD_append] at last
  rw [hq, hnotif, changesFrom_append, getLastD_append, last, changes.2]
  by_cases he : t.eip c = s.eip c <;> simp [he, changesFrom]

/-- A step changes nothing about which sources and contexts are implemented. -/
theorem step_hasSource {s t : State} (h : step s = .next t) (n : Nat) :
    t.hasSource n = s.hasSource n := by
  simp only [State.hasSource, Scope.step_keeps_cfg h]

theorem step_hasContext {s t : State} (h : step s = .next t) (c : Nat) :
    t.hasContext c = s.hasContext c := by
  simp only [State.hasContext, Scope.step_keeps_cfg h]

/-- A hardwired enable bit is kept by every step (R25, R124). -/
theorem step_ieAt_of_hardwired {s t : State} (h : step s = .next t) {c n : Nat}
    (hard : s.ieWritable c n = false) : t.ieAt c n = s.ieAt c n := by
  rcases step_ieAt h c n with keep | ⟨writable, _⟩
  · exact keep
  · simp [hard] at writable

/-- Settles O46, invariant by invariant, from what a step does to each bank and to the queue. -/
theorem stepKeepsInvariants : Obligations.StepKeepsInvariants := by
  intro s t inv h
  have hcfg := Scope.step_keeps_cfg h
  constructor
  case cfg => exact hcfg ▸ inv.cfg
  case prio_legal =>
    intro n hn
    rw [step_hasSource h] at hn
    rw [hcfg]
    rcases step_prioAt h n with keep | ⟨v, _, written⟩
    · rw [keep]
      exact inv.prio_legal n hn
    · obtain ⟨hpos, hle⟩ := hasSource_iff.mp hn
      rw [written]
      exact warl_legal _ _ _ (inv.cfg.prio_disjoint n hpos hle)
  case thr_legal =>
    intro c hc
    rw [step_hasContext h] at hc
    rw [hcfg]
    rcases step_thrAt h c with keep | ⟨v, _, written⟩
    · rw [keep]
      exact inv.thr_legal c hc
    · rw [written]
      exact warl_legal _ _ _ (inv.cfg.thr_disjoint c (hasContext_iff.mp hc))
  case ie_hard0 =>
    intro c n hc hn hard
    rw [step_hasContext h] at hc
    rw [step_hasSource h] at hn
    rw [State.hard0, hcfg, ← State.hard0] at hard
    rw [step_ieAt_of_hardwired h (by simp [State.ieWritable, hard])]
    exact inv.ie_hard0 c n hc hn hard
  case ie_hard1 =>
    intro c n hc hn hard
    rw [step_hasContext h] at hc
    rw [step_hasSource h] at hn
    rw [State.hard1, hcfg, ← State.hard1] at hard
    rw [step_ieAt_of_hardwired h (by simp [State.ieWritable, hard])]
    exact inv.ie_hard1 c n hc hn hard
  case count_max =>
    intro n counts
    rw [State.counts, step_hasSource h, State.kindOf, hcfg] at counts
    have before := inv.count_max n counts
    have bound := step_countAt h n
    rw [hcfg]
    omega
  case nq_changes =>
    intro c hc
    rw [step_hasContext h] at hc
    exact (step_keeps_queue h hc (inv.nq_changes c hc) (inv.nq_last c hc)).1
  case nq_last =>
    intro c hc
    rw [step_hasContext h] at hc
    exact (step_keeps_queue h hc (inv.nq_changes c hc) (inv.nq_last c hc)).2

/-! ## The reset state -/

/-- The constants of a register are a value it may hold: they are what a write of 0 stores (R10, R134). -/
theorem fixed_legal {mask fixed : Word} (h : fixed &&& mask = 0) : fixed &&& ~~~mask = fixed := by
  have zero : warl mask fixed 0 = fixed := by simp [warl]
  have legal := warl_legal mask fixed 0 h
  rwa [zero] at legal

section
variable (k : Config)

theorem resetOf_ipAt (n : Nat) : (State.resetOf k).ipAt n = false := by
  simp [State.ipAt, State.resetOf]

theorem resetOf_countAt (n : Nat) : (State.resetOf k).countAt n = 0 := by
  unfold State.countAt
  split <;> rfl

theorem resetOf_nqAt (c : Nat) : (State.resetOf k).nqAt c = [] := by
  unfold State.nqAt
  split <;> rfl

theorem resetOf_notifAt (c : Nat) : (State.resetOf k).notifAt c = false := by
  simp [State.notifAt, State.resetOf]

/-- Nothing is pending, so nothing is notified. -/
theorem resetOf_eip (c : Nat) : (State.resetOf k).eip c = false := by
  by_contra set
  obtain ⟨n, active⟩ := ((State.resetOf k).eip_iff c).mp (by simpa using set)
  simp [State.activeFor, resetOf_ipAt] at active

/-- No level is asserted, no edge waits and no change is queued. -/
theorem resetOf_agentEnabled (a : AgentStep) : (State.resetOf k).agentEnabled a = false := by
  cases a with
  | gwLevel n => simp [State.agentEnabled, State.levelEnabled, State.sigAt, State.resetOf]
  | gwCounted n => simp [State.agentEnabled, State.countedEnabled, resetOf_countAt]
  | notify c j =>
    simp only [State.agentEnabled, State.notifyEnabled, resetOf_nqAt, List.length_nil,
      Bool.and_eq_false_iff, decide_eq_false_iff_not]
    omega

theorem resetOf_atRest : (State.resetOf k).atRest = true := by
  have hnone : (State.resetOf k).enabledSteps = [] := by
    rw [List.eq_nil_iff_forall_not_mem]
    intro a
    rw [enabledSteps_mem, resetOf_agentEnabled]
    exact Bool.false_ne_true
  rw [State.atRest, hnone]
  rfl

theorem resetOf_inv (wf : k.Wf) : (State.resetOf k).Inv where
  cfg := wf
  prio_legal n hn := by
    have hprio : (State.resetOf k).prioAt n = k.prioFixed.get n := if_pos hn
    obtain ⟨hpos, hle⟩ := hasSource_iff.mp hn
    rw [hprio]
    exact fixed_legal (wf.prio_disjoint n hpos hle)
  thr_legal c hc := by
    have hthr : (State.resetOf k).thrAt c = k.thrFixed.get c := if_pos hc
    rw [hthr]
    exact fixed_legal (wf.thr_disjoint c (hasContext_iff.mp hc))
  ie_hard0 c n hc hn hard := by
    obtain ⟨hpos, hle⟩ := hasSource_iff.mp hn
    have never := wf.hard_disjoint c n (hasContext_iff.mp hc) hpos hle
    have hard : (k.ieHard0.get c).get n = true := hard
    rw [hard, Bool.true_and] at never
    simp [State.ieAt, State.resetOf, never]
  ie_hard1 c n hc hn hard := by
    have hard : ((State.resetOf k).ie.get c).get n = true := hard
    rw [State.ieAt, hc, hn, hard]
    rfl
  count_max n _ := by
    rw [resetOf_countAt]
    exact Nat.zero_le _
  nq_changes c _ := by
    rw [resetOf_nqAt]
    rfl
  nq_last c _ := by
    rw [resetOf_nqAt, resetOf_notifAt, resetOf_eip]
    rfl

theorem resetOf_canonical (wf : k.Wf) : (State.resetOf k).Canonical where
  prio := wf.prioFixed_wf
  ip := rfl
  ie := wf.ieHard1_wf
  thr := wf.thrFixed_wf
  gwBusy := rfl
  gwCount := rfl
  notif := rfl
  nq := rfl
  sig := rfl

theorem resetOf_pendingBusy : (State.resetOf k).PendingBusy := by
  intro n pending
  simp [resetOf_ipAt] at pending

end

/-- Settles O48: the constants are legal values, and nothing is pending, counted or queued. -/
theorem resetStateOfAnyConfigurationIsProper : Obligations.ResetStateOfAnyConfigurationIsProper :=
  fun k wf => ⟨resetOf_inv k wf, resetOf_canonical k wf, resetOf_pendingBusy k, resetOf_atRest k⟩

/-- The configuration of the reset state meets the constraints of R7 to R12. -/
theorem atReset_wf : Config.atReset.Wf where
  nsrc_range := by decide
  nctx_range := by decide
  base_aligned := by decide
  prio_disjoint _ _ _ := BitVec.zero_and
  thr_disjoint _ _ := BitVec.zero_and
  hard_disjoint _ _ _ _ _ := rfl
  count_max_pos n _ _ _ := by
    simp only [Config.atReset, Config.reference, Table.get, findEntry]
    split
    case isTrue => decide
    case isFalse => exact le_rfl
  prioFixed_wf := rfl
  thrFixed_wf := rfl
  ieHard1_wf := rfl

/-- Settles O49: the reset state of one proper configuration. -/
theorem resetStateIsProper : Obligations.ResetStateIsProper :=
  ⟨resetOf_inv _ atReset_wf, resetOf_canonical _ atReset_wf, resetOf_pendingBusy _⟩

/-! ## The region -/

section
variable {off : Nat} (h : off < 2 ^ 26)
include h

theorem read_toNat : (accessWord .read off).toNat = off := by
  rw [accessWord_toNat _ _ h]
  exact Nat.zero_add off

/-- The operation a read of the region stands for, from the numbers of its blocks and registers (R82). -/
theorem decodeAligned_read :
    decodeAligned (accessWord .read off) 0 =
      if off / 128 ≤ 0x1F then
        if off / 4 % 1024 = 0 then .reservedSrc0 .read else .priorityRd (off / 4 % 1024)
      else if off / 128 = 0x20 then .pendingRd (off / 4 % 32)
      else if off / 128 ≤ 0x3F then .reservedGap1 (off / 128) (off / 4 % 32) .read
      else if off / 128 ≤ 0x3E3F then .enableRd (off / 128 - 0x40) (off / 4 % 32)
      else if off / 128 ≤ 0x3FFF then .reservedGap2 (off / 128) (off / 4 % 32) .read
      else if off / 4 % 1024 = 0 then .thresholdRd (off / 4096 - 0x200)
      else if off / 4 % 1024 = 1 then .claim (off / 4096 - 0x200)
      else .reservedCtx (off / 4096 - 0x200) (off / 4 % 1024) .read := by
  have hcc : ccField (accessWord .read off) = off / 128 := by
    rw [ccField_eq, read_toNat h]; omega
  have hpp : ppField (accessWord .read off) = off / 4096 := by
    rw [ppField_eq, read_toNat h]; omega
  have hreg : regField (accessWord .read off) = off / 4 % 1024 := by
    rw [regField_eq, read_toNat h]; rfl
  have hword : wordField (accessWord .read off) = off / 4 % 32 := by
    rw [wordField_eq, read_toNat h]; rfl
  have hdir : dirBit (accessWord .read off) = false := by
    rw [dirBit_eq, read_toNat h]; simpa using h
  simp only [decodeAligned, hcc, hpp, hreg, hword, pick, accessOf, hdir, Bool.false_eq_true, if_false]

end

/-- The word the region holds at a register is what the register holds: no effect comes with it (R28). -/
theorem regWord_eq_held {off : Nat} {i : Instr} (aligned : off % 4 = 0)
    (decodes : decodeAligned (accessWord .read off) 0 = i) (s : State) :
    s.regWord off = s.held i := by
  rw [State.regWord, aligned, Nat.sub_zero, decodes]

/-- The reads of registers that have no effect: all but the claim (R58). -/
theorem registerRead_cases {i : Instr} (read : accessFor i = .read) (register : isReserved i = false)
    (effectless : ∀ c, i ≠ .claim c) :
    (∃ n, i = .priorityRd n) ∨ (∃ w, i = .pendingRd w) ∨ (∃ c w, i = .enableRd c w) ∨
      ∃ c, i = .thresholdRd c := by
  cases i with
  | priorityRd n => exact .inl ⟨n, rfl⟩
  | pendingRd w => exact .inr (.inl ⟨w, rfl⟩)
  | enableRd c w => exact .inr (.inr (.inl ⟨c, w, rfl⟩))
  | thresholdRd c => exact .inr (.inr (.inr ⟨c, rfl⟩))
  | claim c => exact absurd rfl (effectless c)
  | reservedSrc0 a => cases register
  | reservedGap1 cc w a => cases register
  | reservedGap2 cc w a => cases register
  | reservedCtx c r a => cases register
  | _ => cases read

/-- The offset of such a read decodes to it (R85 to R88). -/
theorem decodeAligned_registerRead {i : Instr} (wf : i.wellFormed = true)
    (read : accessFor i = .read) (register : isReserved i = false) (effectless : ∀ c, i ≠ .claim c) :
    decodeAligned (accessWord .read (offsetOf i)) 0 = i := by
  rw [decodeAligned_read (offsetOf_range i wf).1]
  rcases registerRead_cases read register effectless with ⟨n, rfl⟩ | ⟨w, rfl⟩ | ⟨c, w, rfl⟩ | ⟨c, rfl⟩
  · simp only [Instr.wellFormed, sourceOk, Bool.and_eq_true, decide_eq_true_eq] at wf
    have hreg : 4 * n / 4 % 1024 = n := by omega
    rw [offsetOf, if_pos (by omega), hreg, if_neg (by omega)]
  · simp only [Instr.wellFormed, wordOk, decide_eq_true_eq] at wf
    have hword : (0x1000 + 4 * w) / 4 % 32 = w := by omega
    rw [offsetOf, if_neg (by omega), if_pos (by omega), hword]
  · simp only [Instr.wellFormed, contextOk, wordOk, Bool.and_eq_true, decide_eq_true_eq] at wf
    have hctx : (0x2000 + 0x80 * c + 4 * w) / 128 - 0x40 = c := by omega
    have hword : (0x2000 + 0x80 * c + 4 * w) / 4 % 32 = w := by omega
    rw [offsetOf, if_neg (by omega), if_neg (by omega), if_neg (by omega), if_pos (by omega), hctx,
      hword]
  · simp only [Instr.wellFormed, contextOk, decide_eq_true_eq] at wf
    have hctx : (0x200000 + 0x1000 * c) / 4096 - 0x200 = c := by omega
    rw [offsetOf, if_neg (by omega), if_neg (by omega), if_neg (by omega), if_neg (by omega),
      if_neg (by omega), if_pos (by omega), hctx]

/-- Such a read returns what the register holds. -/
theorem exec_registerRead {i : Instr} (read : accessFor i = .read) (register : isReserved i = false)
    (effectless : ∀ c, i ≠ .claim c) (s : State) : exec i s = .next (s.respond (s.held i)) := by
  rcases registerRead_cases read register effectless with ⟨n, rfl⟩ | ⟨w, rfl⟩ | ⟨c, w, rfl⟩ | ⟨c, rfl⟩
  · rfl
  · rfl
  · rfl
  · rfl

/-- The bytes of a word in little-endian order (R57). -/
theorem word_eq_bytes (v : Word) :
    v = v.extractLsb' 24 8 ++ (v.extractLsb' 16 8 ++ (v.extractLsb' 8 8 ++ v.extractLsb' 0 8)) := by
  have low : v.extractLsb' 8 8 ++ v.extractLsb' 0 8 = v.extractLsb' 0 16 :=
    BitVec.extractLsb'_append_extractLsb'_eq_extractLsb' rfl
  have lower : v.extractLsb' 16 8 ++ v.extractLsb' 0 16 = v.extractLsb' 0 24 :=
    BitVec.extractLsb'_append_extractLsb'_eq_extractLsb' rfl
  have all : v.extractLsb' 24 8 ++ v.extractLsb' 0 24 = v.extractLsb' 0 32 :=
    BitVec.extractLsb'_append_extractLsb'_eq_extractLsb' rfl
  rw [low, lower, all, BitVec.extractLsb'_eq_self]

/-- Byte `j` of the word at an aligned offset. -/
theorem regByte_add {off j : Nat} (aligned : off % 4 = 0) (hj : j < 4) (s : State) :
    s.regByte (off + j) = (s.regWord off).extractLsb' (8 * j) 8 := by
  have hbyte : (off + j) % 4 = j := by omega
  have hword : off + j - j = off - off % 4 := by omega
  rw [State.regByte, State.regWord, hbyte, hword]
  rfl

/-- Settles O24: the word at a register's offset is the register the read decodes to, and a word is its
four bytes. -/
theorem regionHoldsWhatReadsReturn : Obligations.RegionHoldsWhatReadsReturn := by
  constructor
  · intro s i wf read register effectless
    rw [exec_registerRead read register effectless,
      regWord_eq_held (offsetOf_range i wf).2
        (decodeAligned_registerRead wf read register effectless)]
  · intro s off aligned
    have byte0 : s.regByte off = (s.regWord off).extractLsb' 0 8 :=
      regByte_add aligned (by omega : 0 < 4) s
    rw [regByte_add aligned (by omega), regByte_add aligned (by omega), regByte_add aligned (by omega),
      byte0]
    exact word_eq_bytes _

end Sys2Proof.Proofs.Banks
end

section
/-! PROOFS. The bus and the claim: what an access is fetched as and runs, what a claim returns and
clears, and which operations repeat without effect. -/

namespace Sys2Proof.Proofs.Memory

open Sys2Proof.Machine

/-! ## The fields of an access word that is made of an access and an offset -/

section
variable (x : Access) {off : Nat} (h : off < 2 ^ 26)
include h

/-- The value of the word: the offset, below the direction. -/
theorem accessWord_value : ∃ d, d ≤ 1 ∧ (accessWord x off).toNat = d * 2 ^ 26 + off := by
  rw [accessWord_toNat x off h]
  cases x with
  | read => exact ⟨0, by simp⟩
  | write v => exact ⟨1, by simp⟩

theorem ccField_accessWord : ccField (accessWord x off) = off / 128 := by
  obtain ⟨d, _, value⟩ := accessWord_value x h
  rw [ccField_eq, value]
  omega

theorem ppField_accessWord : ppField (accessWord x off) = off / 4096 := by
  obtain ⟨d, _, value⟩ := accessWord_value x h
  rw [ppField_eq, value]
  omega

theorem regField_accessWord : regField (accessWord x off) = off / 4 % 1024 := by
  obtain ⟨d, _, value⟩ := accessWord_value x h
  rw [regField_eq, value]
  omega

theorem wordField_accessWord : wordField (accessWord x off) = off / 4 % 32 := by
  obtain ⟨d, _, value⟩ := accessWord_value x h
  rw [wordField_eq, value]
  omega

theorem lowField_accessWord : lowField (accessWord x off) = off % 4 := by
  obtain ⟨d, _, value⟩ := accessWord_value x h
  rw [lowField_eq, value]
  omega

theorem dirBit_accessWord : dirBit (accessWord x off) = decide (x ≠ .read) := by
  rw [dirBit_eq, accessWord_toNat x off h]
  cases x with
  | read => simpa using h
  | write v => simp

/-- The access is found again in the words it makes (R80). -/
theorem accessOf_accessWord : accessOf (accessWord x off) (accessData x) = x := by
  rw [accessOf, dirBit_accessWord x h]
  cases x with
  | read => rfl
  | write v => rfl

end

/-! ## Decoding the words of an operation -/

/-- The read or the write of one register, by the access: `pick` with the data of the write in place. -/
def choose (x : Access) (rd : Instr) (wr : Word → Instr) : Instr :=
  match x with
  | .read => rd
  | .write v => wr v

section
variable (x : Access) {off : Nat} (h : off < 2 ^ 26)
include h

theorem pick_accessWord (rd : Instr) (wr : Word → Instr) :
    pick (accessWord x off) rd (wr (accessData x)) = choose x rd wr := by
  rw [pick, dirBit_accessWord x h]
  cases x with
  | read => rfl
  | write v => rfl

/-- R82 on the words of an access: the operation from the numbers of the offset's blocks and registers. -/
theorem decodeAligned_accessWord :
    decodeAligned (accessWord x off) (accessData x) =
      if off / 128 ≤ 0x1F then
        if off / 4 % 1024 = 0 then .reservedSrc0 x
        else choose x (.priorityRd (off / 4 % 1024)) (.priorityWr (off / 4 % 1024))
      else if off / 128 = 0x20 then
        choose x (.pendingRd (off / 4 % 32)) (.pendingWr (off / 4 % 32))
      else if off / 128 ≤ 0x3F then .reservedGap1 (off / 128) (off / 4 % 32) x
      else if off / 128 ≤ 0x3E3F then
        choose x (.enableRd (off / 128 - 0x40) (off / 4 % 32))
          (.enableWr (off / 128 - 0x40) (off / 4 % 32))
      else if off / 128 ≤ 0x3FFF then .reservedGap2 (off / 128) (off / 4 % 32) x
      else if off / 4 % 1024 = 0 then
        choose x (.thresholdRd (off / 4096 - 0x200)) (.thresholdWr (off / 4096 - 0x200))
      else if off / 4 % 1024 = 1 then
        choose x (.claim (off / 4096 - 0x200)) (.complete (off / 4096 - 0x200))
      else .reservedCtx (off / 4096 - 0x200) (off / 4 % 1024) x := by
  simp only [decodeAligned, ccField_accessWord x h, ppField_accessWord x h, regField_accessWord x h,
    wordField_accessWord x h, accessOf_accessWord x h, pick_accessWord x h]

end

/-! One lemma for each block of the region, for a read and a write alike (R85 to R88, R91). -/

section
variable (x : Access)

theorem decodeAligned_priority {n : Nat} (lo : 1 ≤ n) (hi : n ≤ 1023) :
    decodeAligned (accessWord x (4 * n)) (accessData x) = choose x (.priorityRd n) (.priorityWr n) := by
  have hreg : 4 * n / 4 % 1024 = n := by omega
  rw [decodeAligned_accessWord x (by omega), if_pos (by omega), hreg, if_neg (by omega)]

theorem decodeAligned_pending {w : Nat} (hw : w ≤ 31) :
    decodeAligned (accessWord x (0x1000 + 4 * w)) (accessData x) =
      choose x (.pendingRd w) (.pendingWr w) := by
  have hword : (0x1000 + 4 * w) / 4 % 32 = w := by omega
  rw [decodeAligned_accessWord x (by omega), if_neg (by omega), if_pos (by omega), hword]

theorem decodeAligned_enable {c w : Nat} (hc : c ≤ 15871) (hw : w ≤ 31) :
    decodeAligned (accessWord x (0x2000 + 0x80 * c + 4 * w)) (accessData x) =
      choose x (.enableRd c w) (.enableWr c w) := by
  have hctx : (0x2000 + 0x80 * c + 4 * w) / 128 - 0x40 = c := by omega
  have hword : (0x2000 + 0x80 * c + 4 * w) / 4 % 32 = w := by omega
  rw [decodeAligned_accessWord x (by omega), if_neg (by omega), if_neg (by omega), if_neg (by omega),
    if_pos (by omega), hctx, hword]

theorem decodeAligned_gap1 {cc w : Nat} (lo : 0x21 ≤ cc) (hi : cc ≤ 0x3F) (hw : w ≤ 31) :
    decodeAligned (accessWord x (0x80 * cc + 4 * w)) (accessData x) = .reservedGap1 cc w x := by
  have hcc : (0x80 * cc + 4 * w) / 128 = cc := by omega
  have hword : (0x80 * cc + 4 * w) / 4 % 32 = w := by omega
  rw [decodeAligned_accessWord x (by omega), hcc, hword, if_neg (by omega), if_neg (by omega),
    if_pos hi]

theorem decodeAligned_gap2 {cc w : Nat} (lo : 0x3E40 ≤ cc) (hi : cc ≤ 0x3FFF) (hw : w ≤ 31) :
    decodeAligned (accessWord x (0x80 * cc + 4 * w)) (accessData x) = .reservedGap2 cc w x := by
  have hcc : (0x80 * cc + 4 * w) / 128 = cc := by omega
  have hword : (0x80 * cc + 4 * w) / 4 % 32 = w := by omega
  rw [decodeAligned_accessWord x (by omega), hcc, hword, if_neg (by omega), if_neg (by omega),
    if_neg (by omega), if_neg (by omega), if_pos hi]

/-- Register `r` of the block of a context: the threshold, the claim or completion, or a reserved one. -/
theorem decodeAligned_block {c r : Nat} (hc : c ≤ 15871) (hr : r ≤ 1023) :
    decodeAligned (accessWord x (0x200000 + 0x1000 * c + 4 * r)) (accessData x) =
      if r = 0 then choose x (.thresholdRd c) (.thresholdWr c)
      else if r = 1 then choose x (.claim c) (.complete c)
      else .reservedCtx c r x := by
  have hctx : (0x200000 + 0x1000 * c + 4 * r) / 4096 - 0x200 = c := by omega
  have hreg : (0x200000 + 0x1000 * c + 4 * r) / 4 % 1024 = r := by omega
  rw [decodeAligned_accessWord x (by omega), if_neg (by omega), if_neg (by omega), if_neg (by omega),
    if_neg (by omega), if_neg (by omega), hctx, hreg]

theorem decodeAligned_threshold {c : Nat} (hc : c ≤ 15871) :
    decodeAligned (accessWord x (0x200000 + 0x1000 * c)) (accessData x) =
      choose x (.thresholdRd c) (.thresholdWr c) := by
  have hoff : 0x200000 + 0x1000 * c = 0x200000 + 0x1000 * c + 4 * 0 := by omega
  rw [hoff, decodeAligned_block x hc (by omega), if_pos rfl]

theorem decodeAligned_claimComplete {c : Nat} (hc : c ≤ 15871) :
    decodeAligned (accessWord x (0x200004 + 0x1000 * c)) (accessData x) =
      choose x (.claim c) (.complete c) := by
  have hoff : 0x200004 + 0x1000 * c = 0x200000 + 0x1000 * c + 4 * 1 := by omega
  rw [hoff, decodeAligned_block x hc (by omega), if_neg (by omega), if_pos rfl]

end

/-- The words of a well-formed operation stand for it: the converses in R85 to R88. -/
theorem decodeAligned_encode {i : Instr} (wf : i.wellFormed = true) :
    decodeAligned (encode i).1 (encode i).2 = i := by
  cases i <;> simp only [Instr.wellFormed, sourceOk, wordOk, contextOk, gap1Ok, gap2Ok, blockRegOk,
    Bool.and_eq_true, decide_eq_true_eq] at wf
  case priorityRd n => exact decodeAligned_priority .read wf.1 wf.2
  case priorityWr n v => exact decodeAligned_priority (.write v) wf.1 wf.2
  case pendingRd w => exact decodeAligned_pending .read wf
  case pendingWr w v => exact decodeAligned_pending (.write v) wf
  case enableRd c w => exact decodeAligned_enable .read wf.1 wf.2
  case enableWr c w v => exact decodeAligned_enable (.write v) wf.1 wf.2
  case thresholdRd c => exact decodeAligned_threshold .read wf
  case thresholdWr c v => exact decodeAligned_threshold (.write v) wf
  case claim c => exact decodeAligned_claimComplete .read wf
  case complete c v => exact decodeAligned_claimComplete (.write v) wf
  case reservedSrc0 a => exact decodeAligned_accessWord a (off := 0) (by omega)
  case reservedGap1 cc w a =>
    obtain ⟨⟨lo, hi⟩, hw⟩ := wf
    exact decodeAligned_gap1 a lo hi hw
  case reservedGap2 cc w a =>
    obtain ⟨⟨lo, hi⟩, hw⟩ := wf
    exact decodeAligned_gap2 a lo hi hw
  case reservedCtx c r a =>
    obtain ⟨hc, lo, hi⟩ := wf
    refine (decodeAligned_block a hc hi).trans ?_
    rw [if_neg (by omega), if_neg (by omega)]

theorem decode_of_aligned {off : Nat} (h : off < 2 ^ 26) (aligned : off % 4 = 0) (x : Access)
    (v : Word) : decode (accessWord x off) v = some (decodeAligned (accessWord x off) v) :=
  if_pos ((lowField_accessWord x h).trans aligned)

theorem decode_of_misaligned {off : Nat} (h : off < 2 ^ 26) (misaligned : off % 4 ≠ 0) (x : Access)
    (v : Word) : decode (accessWord x off) v = none :=
  if_neg (by rwa [lowField_accessWord x h])

theorem decode_encode {i : Instr} (wf : i.wellFormed = true) :
    decode (encode i).1 (encode i).2 = some i := by
  obtain ⟨inside, aligned⟩ := offsetOf_range i wf
  refine (decode_of_aligned inside aligned _ _).trans ?_
  exact congrArg some (decodeAligned_encode wf)

/-- A read drives no data: what it decodes to does not depend on the data lines (R80). -/
theorem decode_read_data {off : Nat} (h : off < 2 ^ 26) (v w : Word) :
    decode (accessWord .read off) v = decode (accessWord .read off) w := by
  have hdir : dirBit (accessWord .read off) = false := dirBit_accessWord .read h
  simp only [decode, decodeAligned, pick, accessOf, hdir, Bool.false_eq_true, if_false]

/-! ## What an access that arrives on the bus is fetched as -/

section
variable {cfg : Config} {b : BusAccess}

theorem offsetIn_inside (lo : cfg.base ≤ b.addr) (hi : b.addr < cfg.base + 0x4000000) :
    offsetIn cfg b.addr = some (b.addr - cfg.base) :=
  if_pos ⟨lo, hi⟩

theorem fetch_outside (out : ¬ (cfg.base ≤ b.addr ∧ b.addr < cfg.base + 0x4000000)) :
    fetch cfg b = .fault .outsideRegion := by
  have hoff : offsetIn cfg b.addr = none := if_neg out
  simp only [fetch, hoff]

variable (lo : cfg.base ≤ b.addr) (hi : b.addr < cfg.base + 0x4000000)
include lo hi

theorem fetch_otherKind {r : Refusal} (kind : busAccess b = .error r) : fetch cfg b = .refused r := by
  simp only [fetch, offsetIn_inside lo hi, kind]

theorem fetch_otherSize {x : Access} (kind : busAccess b = .ok x) (size : b.size ≠ 4) :
    fetch cfg b = .refused .width := by
  simp only [fetch, offsetIn_inside lo hi, kind, size, if_false]

theorem fetch_word {x : Access} (kind : busAccess b = .ok x) (size : b.size = 4) :
    fetch cfg b = fetchAt x (b.addr - cfg.base) := by
  simp only [fetch, offsetIn_inside lo hi, kind, size, if_true]

end

theorem fetchAt_of_decode {x : Access} {off : Nat} {i : Instr}
    (decodes : decode (accessWord x off) (accessData x) = some i) : fetchAt x off = .next i := by
  simp only [fetchAt, decodes]

theorem fetchAt_misaligned {x : Access} {off : Nat} (h : off < 2 ^ 26) (misaligned : off % 4 ≠ 0) :
    fetchAt x off = .refused .misaligned := by
  simp only [fetchAt, decode_of_misaligned h misaligned]

/-- A load or a store is a read or the write of its data (R54). -/
theorem busAccess_loadStore {b : BusAccess} (kind : b.kind = .load ∨ b.kind = .store) :
    ∃ x, busAccess b = .ok x := by
  rcases kind with kind | kind
  · exact ⟨.read, by simp only [busAccess, kind]⟩
  · exact ⟨.write b.data, by simp only [busAccess, kind]⟩

/-- The data of an access that is no read is what the bus supplies. -/
theorem busAccess_data {b : BusAccess} {x : Access} (kind : busAccess b = .ok x) :
    x = .read ∨ x = .write b.data := by
  unfold busAccess at kind
  split at kind <;> cases kind
  · exact .inl rfl
  · exact .inr rfl

theorem wordAccess_iff {cfg : Config} {b : BusAccess} :
    wordAccess cfg b = true ↔
      (b.kind = .load ∨ b.kind = .store) ∧ b.size = 4 ∧ cfg.base ≤ b.addr ∧
        b.addr < cfg.base + 0x4000000 ∧ (b.addr - cfg.base) % 4 = 0 := by
  simp only [wordAccess, Bool.and_eq_true, decide_eq_true_eq]
  rfl

/-! ## What the step makes of what is fetched -/

section
variable {s : State} {b : BusAccess} {rest : List Event} (next : s.todo = .bus b :: rest)
include next

theorem step_bus_next {i : Instr} (fetched : fetch s.cfg b = .next i) :
    step s = noteResult (s.setTodo rest) (exec i (s.setTodo rest)) := by
  simp only [Scope.step_of_todo next, runEvent, runBus, State.setTodo_cfg, fetched]

theorem step_bus_fault {f : Fault} (fetched : fetch s.cfg b = .fault f) : step s = .fault f := by
  simp only [Scope.step_of_todo next, runEvent, runBus, State.setTodo_cfg, fetched]

theorem step_bus_refused {r : Refusal} (fetched : fetch s.cfg b = .refused r) :
    step s = .refused r := by
  simp only [Scope.step_of_todo next, runEvent, runBus, State.setTodo_cfg, fetched]

end

/-- Settles O8: such an access is fetched as the operation it decodes to, and a load's data lines are
ignored. -/
theorem stepRunsDecodedOperation : Obligations.StepRunsDecodedOperation := by
  intro s b rest x i next word kind decodes
  obtain ⟨_, size, lo, hi, _⟩ := wordAccess_iff.mp word
  have data : decode (accessWord x (b.addr - s.cfg.base)) (accessData x) = some i := by
    rcases busAccess_data kind with rfl | rfl
    · rw [← decodes]
      exact decode_read_data (by omega) _ _
    · exact decodes
  exact step_bus_next next ((fetch_word lo hi kind size).trans (fetchAt_of_decode data))

/-- Settles O10, ground by ground in the order of log entry 8. -/
theorem otherAccessesStopByName : Obligations.OtherAccessesStopByName := by
  intro s b rest next
  refine ⟨fun out => step_bus_fault next (fetch_outside out), fun lo hi => ⟨fun fetching => ?_,
    fun atomic => ?_, fun plain => ?_⟩⟩
  · have kind : busAccess b = .error .instructionFetch := by simp only [busAccess, fetching]
    exact step_bus_refused next (fetch_otherKind lo hi kind)
  · have kind : busAccess b = .error .atomicOperation := by
      rcases atomic with atomic | atomic | atomic <;> simp only [busAccess, atomic]
    exact step_bus_refused next (fetch_otherKind lo hi kind)
  · obtain ⟨x, kind⟩ := busAccess_loadStore plain
    refine ⟨fun size => step_bus_refused next (fetch_otherSize lo hi kind size),
      fun size misaligned => step_bus_refused next ?_⟩
    rw [fetch_word lo hi kind size]
    exact fetchAt_misaligned (by omega) misaligned

/-! ## The two words of an operation, where the machine fetches -/

theorem tableAccess_pair (a : AccessWord) (v : Word) :
    (tableAccess 64 (a.toNat + v.toNat * 2 ^ 32)).toNat = a.toNat := by
  have ha := a.isLt
  have hv := v.isLt
  rw [tableAccess, BitVec.toNat_ofNat]
  omega

theorem tableData_pair (a : AccessWord) (v : Word) :
    tableData 64 (a.toNat + v.toNat * 2 ^ 32) = v := by
  have ha := a.isLt
  have hv := v.isLt
  have hdata : (a.toNat + v.toNat * 2 ^ 32) % 2 ^ 64 / 2 ^ 32 = v.toNat := by omega
  rw [tableData, hdata, BitVec.ofNat_toNat, BitVec.setWidth_eq]

/-- The access that the words of `x` at `off` ask for (log entry 20). -/
def accessAt (cfg : Config) (x : Access) (off : Nat) : BusAccess where
  kind := if x = .read then .load else .store
  addr := cfg.base + off
  size := 4
  data := accessData x

theorem accessOfWords_pair (cfg : Config) (x : Access) {off : Nat} (h : off < 2 ^ 26) (a : Word)
    (ha : a.toNat = (accessWord x off).toNat) :
    accessOfWords cfg a (accessData x) = accessAt cfg x off := by
  have hdir : a.getLsbD 26 = decide (x ≠ .read) := by
    rw [← dirBit_accessWord x h, dirBit, BitVec.getLsbD, BitVec.getLsbD, ha]
  have haddr : a.toNat % 2 ^ 26 + a.toNat / 2 ^ 27 * 2 ^ 26 = off := by
    obtain ⟨d, _, value⟩ := accessWord_value x h
    rw [ha, value]
    omega
  rw [accessOfWords, accessAt, haddr, hdir]
  cases x with
  | read => rfl
  | write v => rfl

theorem busAccess_accessAt (cfg : Config) (x : Access) (off : Nat) :
    busAccess (accessAt cfg x off) = .ok x := by
  cases x with
  | read => rfl
  | write v => rfl

theorem fetch_accessAt (cfg : Config) (x : Access) {off : Nat} (h : off < 2 ^ 26) :
    fetch cfg (accessAt cfg x off) = fetchAt x off := by
  have haddr : (accessAt cfg x off).addr = cfg.base + off := rfl
  rw [fetch_word (by omega) (by omega) (busAccess_accessAt cfg x off) rfl, haddr,
    Nat.add_sub_cancel_left]

theorem withFetchWord_encode (s : State) {i : Instr} (wf : i.wellFormed = true) :
    s.withFetchWord 64 ((encode i).1.toNat + (encode i).2.toNat * 2 ^ 32) =
      s.setTodo (.bus (accessAt s.cfg (accessFor i) (offsetOf i)) :: s.todo) := by
  rw [State.withFetchWord, tableData_pair]
  exact congrArg (fun b => s.setTodo (.bus b :: s.todo))
    (accessOfWords_pair s.cfg (accessFor i) (offsetOf_range i wf).1 _ (tableAccess_pair _ _))

/-- Settles O9: the words are fetched as the access they encode, which decodes to the operation. -/
theorem fetchWordRunsOperation : Obligations.FetchWordRunsOperation := by
  intro s i wf
  rw [withFetchWord_encode s wf]
  exact step_bus_next rfl ((fetch_accessAt s.cfg (accessFor i) (offsetOf_range i wf).1).trans
    (fetchAt_of_decode (decode_encode wf)))

/-! ## The claim -/

/-- A claim changes the pending bits and the value returned, and nothing else. -/
theorem claimed_frame (s : State) (n : Nat) :
    s.claimed n = { s with ip := (s.claimed n).ip, rdata := (s.claimed n).rdata } := by
  unfold State.claimed
  split <;> rfl

theorem candidate_iff {s : State} {c n : Nat} :
    s.candidate c n = true ↔
      s.ipAt n = true ∧ s.ieAt c n = true ∧ (0 < s.prioAt n ∨ s.cfg.claimSkipsPrio0 = false) := by
  simp only [State.candidate, Bool.and_eq_true, Bool.or_eq_true, decide_eq_true_eq,
    Bool.not_eq_true']

theorem hasContext_of_ieAt {s : State} {c n : Nat} (h : s.ieAt c n = true) :
    s.hasContext c = true := by
  simp only [State.ieAt, Bool.and_eq_true] at h
  exact h.1

/-- What a claim returns, if it is not 0, is a candidate ahead of every other (R141). -/
theorem best_of_ne_zero {s : State} {c : Nat} (found : s.best c ≠ 0) :
    s.hasSource (s.best c) = true ∧ s.candidate c (s.best c) = true ∧
      ∀ m, m ≠ s.best c → s.candidate c m = true → s.beats (s.best c) m = true :=
  (s.best_spec c).resolve_left fun none => found none.1

theorem best_eq_zero_iff {s : State} {c : Nat} :
    s.best c = 0 ↔ ¬ ∃ m, s.candidate c m = true := by
  rcases s.best_spec c with ⟨zero, none⟩ | ⟨source, candidate, _⟩
  · simp [zero, none]
  · have pos := (Banks.hasSource_iff.mp source).1
    exact iff_of_false (by omega) fun none => none ⟨_, candidate⟩

/-- A byte of a packed word depends on its own eight bits only. -/
theorem byte_wordOfBits_congr {f g : Nat → Bool} {i : Nat}
    (h : ∀ j, j < 8 → f (8 * i + j) = g (8 * i + j)) :
    (wordOfBits f).extractLsb' (8 * i) 8 = (wordOfBits g).extractLsb' (8 * i) 8 := by
  refine BitVec.eq_of_getLsbD_eq fun j hj => ?_
  simp only [BitVec.getLsbD_extractLsb', getLsbD_wordOfBits, h j hj]

/-- The only byte a claim may change is the one with the bit of the source it returns (R57, R86). -/
theorem claimed_regByte (s : State) (n : Nat) {off : Nat} (h : off < 0x4000000)
    (other : off ≠ 0x1000 + n / 8) : (s.claimed n).regByte off = s.regByte off := by
  rw [State.regByte, State.regByte, State.regWord, State.regWord,
    Banks.decodeAligned_read (by omega : off - off % 4 < 2 ^ 26)]
  by_cases pending : (off - off % 4) / 128 = 0x20
  · have bits : ∀ j, j < 8 →
        (s.claimed n).ipAt (sourceOf ((off - off % 4) / 4 % 32) (8 * (off % 4) + j)) =
          s.ipAt (sourceOf ((off - off % 4) / 4 % 32) (8 * (off % 4) + j)) := by
      intro j hj
      rw [claimed_ipAt, if_neg]
      unfold sourceOf
      omega
    rw [if_neg (by omega), if_pos pending]
    exact byte_wordOfBits_congr bits
  · rw [if_neg pending, claimed_frame]
    split_ifs <;> rfl

/-- Settles O20: the claim clears the pending bit of `best`, which `best_spec` says is ahead of every
other candidate. -/
theorem claimReturnsBestAndClearsIt : Obligations.ClaimReturnsBestAndClearsIt := by
  refine ⟨fun c hc => ?_, fun c s => ⟨s.claimed (s.best c), s.best c, (exec_claim c s).symm, rfl,
    claimed_frame s _, fun zero => ?_, ?_, fun found => ?_, claimed_ipAt s _,
    fun off => claimed_regByte s _⟩⟩
  · exact decode_encode (i := .claim c) (decide_eq_true hc)
  · rw [zero]
    rfl
  · rw [best_eq_zero_iff]
    refine not_congr (exists_congr fun m => ?_)
    rw [candidate_iff]
    exact ⟨fun ⟨ip, ie, prio⟩ => ⟨Banks.hasContext_iff.mp (hasContext_of_ieAt ie), ip, ie, prio⟩,
      fun ⟨_, candidate⟩ => candidate⟩
  · obtain ⟨source, candidate, ahead⟩ := best_of_ne_zero found
    obtain ⟨pos, le⟩ := Banks.hasSource_iff.mp source
    obtain ⟨ip, ie, prio⟩ := candidate_iff.mp candidate
    exact ⟨pos, le, ip, ie, prio, fun m hne hip hie hprio =>
      (s.beats_iff _ _).mp (ahead m hne (candidate_iff.mpr ⟨hip, hie, hprio⟩))⟩

/-! ## Claims that race -/

theorem eq_claimed_of_exec {s t : State} {c : Nat} (claim : exec (.claim c) s = .next t) :
    t = s.claimed (s.best c) :=
  (Host.Outcome.next.inj ((exec_claim c s).trans claim)).symm

/-- A claim that returns an ID other than 0 returns a source that was pending and no longer is (R142); up
to 1023 sources an ID is found again in the word returned (R7). -/
theorem exec_claim_id {s t : State} {c : Nat} {id : Word} (small : s.cfg.nsrc ≤ 1023)
    (claim : exec (.claim c) s = .next t) (rdata : t.rdata = some id) (found : id ≠ 0) :
    s.ipAt id.toNat = true ∧ t.ipAt id.toNat = false := by
  obtain rfl := eq_claimed_of_exec claim
  have hid : idWord (s.best c) = id := Option.some.inj rdata
  have hbest : s.best c ≠ 0 := fun zero => found (by rw [← hid, zero]; rfl)
  obtain ⟨source, candidate, _⟩ := best_of_ne_zero hbest
  have range := Banks.hasSource_iff.mp source
  have hnat : id.toNat = s.best c := by
    rw [← hid, idWord, BitVec.toNat_ofNat]
    omega
  rw [hnat, claimed_ipAt, if_pos rfl]
  exact ⟨(candidate_iff.mp candidate).1, rfl⟩

/-- A scheduled bus operation is what the step runs. -/
theorem step_of_nextIs {s t : State} {i : Instr} (next : s.nextIs i) (h : step s = .next t) :
    ∃ rest u, exec i (s.setTodo rest) = .next u ∧ t = noteEip (s.setTodo rest) u := by
  obtain ⟨b, rest, todo, fetched⟩ := next
  rw [step_bus_next todo fetched] at h
  cases hx : exec i (s.setTodo rest) with
  | next u =>
    rw [hx] at h
    exact ⟨rest, u, hx, (Host.Outcome.next.inj h).symm⟩
  | fault f => rw [hx] at h; cases h
  | refused r => rw [hx] at h; cases h

/-- `exec_claim_id` for the whole step: the changes of `eip` queued after it touch neither. -/
theorem step_claim_id {s t : State} {c : Nat} {id : Word} (small : s.cfg.nsrc ≤ 1023)
    (next : s.nextIs (.claim c)) (h : step s = .next t) (rdata : t.rdata = some id)
    (found : id ≠ 0) : s.ipAt id.toNat = true ∧ t.ipAt id.toNat = false := by
  obtain ⟨rest, u, claim, rfl⟩ := step_of_nextIs next h
  exact exec_claim_id (s := s.setTodo rest) (t := u) small claim rdata found

section
variable {σ : Nat → State} {k : Nat}
  (run : ∀ i, i ≤ k → ∃ t l, step (σ i) = .next t ∧ σ (i + 1) = t.setTodo l)
include run

/-- `step_claim_id` between two states of a run. -/
theorem run_claim_id {i c : Nat} {id : Word} (hi : i ≤ k) (small : (σ i).cfg.nsrc ≤ 1023)
    (next : (σ i).nextIs (.claim c)) (rdata : (σ (i + 1)).rdata = some id) (found : id ≠ 0) :
    (σ i).ipAt id.toNat = true ∧ (σ (i + 1)).ipAt id.toNat = false := by
  obtain ⟨t, l, stepped, after⟩ := run i hi
  rw [after] at rdata ⊢
  exact step_claim_id (t := t) small next stepped rdata found

theorem run_cfg {i : Nat} (hi : i ≤ k) : (σ i).cfg = (σ 0).cfg := by
  induction i with
  | zero => rfl
  | succ i ih =>
    obtain ⟨t, l, stepped, after⟩ := run i (by omega)
    rw [after, State.setTodo_cfg, Scope.step_keeps_cfg stepped, ih (by omega)]

end

/-- Settles O30: the first claim clears the pending bit of the source it returns, nothing sets it again,
and a second claim that returned it would have found it set. -/
theorem racingClaimsReturnDifferentSources : Obligations.RacingClaimsReturnDifferentSources := by
  constructor
  · intro s t u c d id small first rdata found second again
    have cfg : t.cfg = s.cfg := by rw [eq_claimed_of_exec first, claimed_frame]
    have cleared := (exec_claim_id small first rdata found).2
    have pending := (exec_claim_id (cfg ▸ small) second again found).1
    simp [cleared] at pending
  · intro σ k c d id small hk run first rdata found kept second again
    have cleared : ∀ i, 1 ≤ i → i ≤ k → (σ i).ipAt id.toNat = false := by
      intro i hi
      induction i, hi using Nat.le_induction with
      | base => exact fun _ => (run_claim_id run (Nat.zero_le k) small first rdata found).2
      | succ i hi ih => exact fun hik => kept i hi hik (ih (by omega))
    have pending :=
      (run_claim_id run le_rfl (run_cfg run le_rfl ▸ small) second again found).1
    simp [cleared k hk le_rfl] at pending

/-! ## Operations that are repeated -/

/-- In a canonical table, writing what is held changes nothing. -/
theorem table_set_of_get {α : Type} [DecidableEq α] {t : Table α} {i : Nat} {v : α}
    (wf : t.wf = true) (held : t.get i = v) : t.set i v = t := by
  refine Table.ext_of_wf _ _ (Table.wf_set t i v wf) wf rfl fun j => ?_
  rw [Table.get_set]
  by_cases hj : j = i
  · rw [if_pos hj, hj, held]
  · rw [if_neg hj]

/-- In a canonical table, a write given twice is one given once. -/
theorem table_set_set {α : Type} [DecidableEq α] {t : Table α} {i : Nat} {v : α}
    (wf : t.wf = true) : (t.set i v).set i v = t.set i v :=
  table_set_of_get (Table.wf_set t i v wf) (by rw [Table.get_set, if_pos rfl])

theorem findEntry_wf {d : Table Bool} {l : List (Nat × Table Bool)} (i : Nat) (hd : d.wf = true)
    (hl : ∀ e ∈ l, e.2.wf = true) : (findEntry i d l).wf = true := by
  induction l with
  | nil => exact hd
  | cons e l ih =>
    unfold findEntry
    split
    · exact hl e List.mem_cons_self
    · exact ih fun e he => hl e (List.mem_cons_of_mem _ he)

/-- Where both levels are canonical, so is the table and each of its rows. -/
theorem wf_of_rowsWf {t : Table (Table Bool)} (h : rowsWf t = true) :
    t.wf = true ∧ ∀ c, (t.get c).wf = true := by
  simp only [rowsWf, Bool.and_eq_true, List.all_eq_true] at h
  obtain ⟨table, dflt, rows⟩ := h
  exact ⟨table, fun c => findEntry_wf c dflt rows⟩

theorem enableRow_dflt (s : State) (c w : Nat) (v : Word) (k : Nat) :
    (s.enableRow c w v k).dflt = (s.ie.get c).dflt := by
  induction k with
  | zero => rfl
  | succ k ih =>
    unfold State.enableRow
    split
    · exact ih
    · exact ih

/-- The row after a write already has the bits that the same write gives it again. -/
theorem enableRow_setIeRow (s : State) (c w : Nat) (v : Word) (wf : (s.ie.get c).wf = true) :
    (s.setIeRow c (s.enableRow c w v 32)).enableRow c w v 32 = s.enableRow c w v 32 := by
  have row : (s.setIeRow c (s.enableRow c w v 32)).ie.get c = s.enableRow c w v 32 := by
    rw [State.setIeRow_ie, Table.get_set, if_pos rfl]
  have rowWf := enableRow_wf s c w v 32 wf
  refine Table.ext_of_wf _ _ (enableRow_wf _ _ _ _ _ (row.symm ▸ rowWf)) rowWf
    ((enableRow_dflt _ _ _ _ _).trans (by rw [row])) fun m => ?_
  rw [enableRow_get, row, State.setIeRow_ieWritable]
  split
  case isTrue written => rw [enableRow_get, if_pos written]
  case isFalse => rfl

/-- A guarded update that keeps its guard and changes nothing when made twice can be repeated: the shape of
every write. -/
theorem guarded_again {guard : State → Bool} {update : State → State} {s t : State}
    (h : Host.Outcome.next (if guard s then update s else s) = (.next t : Result))
    (keeps : guard (update s) = guard s) (twice : update (update s) = update s) :
    Host.Outcome.next (if guard t then update t else t) = (.next t : Result) := by
  cases hs : guard s with
  | false =>
    have ht : s = t := by simpa [hs] using h
    exact ht ▸ h
  | true =>
    have ht : update s = t := by simpa [hs] using h
    rw [← ht, keeps, hs, twice]
    rfl

theorem respond_held (s : State) (v : Word) (i : Instr) : (s.respond v).held i = s.held i := by
  cases i <;> rfl

/-- A read without effect finds what it found before (R58). -/
theorem exec_registerRead_again {s t : State} {i : Instr} (read : accessFor i = .read)
    (register : isReserved i = false) (effectless : ∀ c, i ≠ .claim c) (h : exec i s = .next t) :
    exec i t = .next t := by
  rw [Banks.exec_registerRead read register effectless] at h ⊢
  cases h
  rw [respond_held]
  rfl

/-- An access to a reserved offset that is answered is answered again (R91). -/
theorem exec_reserved_again {s t : State} {i : Instr} (reserved : isReserved i = true)
    (h : exec i s = .next t) : exec i t = .next t := by
  rw [Scope.exec_of_isReserved reserved] at h ⊢
  cases parameter : s.cfg.reservedAccess with
  | refuse =>
    rw [Scope.reservedAccess_of_refuse parameter] at h
    cases h
  | readZeroIgnoreWrite =>
    rw [Scope.reservedAccess_of_readZeroIgnoreWrite parameter] at h
    cases access : accessFor i with
    | read =>
      rw [access, if_pos rfl] at h
      cases h
      exact Scope.reservedAccess_of_readZeroIgnoreWrite (s := s.respond 0) parameter .read
    | write v =>
      rw [access, if_neg (by simp)] at h
      cases h
      exact Scope.reservedAccess_of_readZeroIgnoreWrite parameter (.write v)

/-- Settles O25, class by class: the reads without effect, the writes and the completion as guarded
updates, the reserved offsets. -/
theorem repeatedOperationsChangeNothing : Obligations.RepeatedOperationsChangeNothing := by
  intro s t i canonical h effectless
  cases i with
  | priorityRd n => exact exec_registerRead_again rfl rfl effectless h
  | pendingRd w => exact exec_registerRead_again rfl rfl effectless h
  | enableRd c w => exact exec_registerRead_again rfl rfl effectless h
  | thresholdRd c => exact exec_registerRead_again rfl rfl effectless h
  | claim c => exact absurd rfl (effectless c)
  | priorityWr n v =>
    refine guarded_again (guard := fun s => s.hasSource n)
      (update := fun s => s.setPrio n (s.legalPrio n v)) h rfl ?_
    exact congrArg (fun bank => { s with prio := bank }) (table_set_set canonical.prio)
  | pendingWr w v => rfl
  | enableWr c w v =>
    refine guarded_again (guard := fun s => s.hasContext c)
      (update := fun s => s.setIeRow c (s.enableRow c w v 32)) h rfl ?_
    obtain ⟨table, rows⟩ := wf_of_rowsWf canonical.ie
    simp only [enableRow_setIeRow s c w v (rows c)]
    exact congrArg (fun bank => { s with ie := bank }) (table_set_set table)
  | thresholdWr c v =>
    refine guarded_again (guard := fun s => s.hasContext c)
      (update := fun s => s.setThr c (s.legalThr c v)) h rfl ?_
    exact congrArg (fun bank => { s with thr := bank }) (table_set_set canonical.thr)
  | complete c v =>
    refine guarded_again (guard := fun s => s.completionAccepted c v)
      (update := fun s => s.setBusy v.toNat false) h rfl ?_
    exact congrArg (fun bank => { s with gwBusy := bank }) (table_set_set canonical.gwBusy)
  | reservedSrc0 a => exact exec_reserved_again rfl h
  | reservedGap1 cc w a => exact exec_reserved_again rfl h
  | reservedGap2 cc w a => exact exec_reserved_again rfl h
  | reservedCtx c r a => exact exec_reserved_again rfl h

end Sys2Proof.Proofs.Memory
end

section
/-! PROOFS. The encoding: an access word is its access and its offset (R80), the blocks of the region in
both directions (R85 to R88), the operation table (R90), and the reads and the write of the bit arrays. -/

namespace Sys2Proof.Proofs.Encoding

open Sys2Proof.Machine Sys2Proof.Proofs.Memory

/-- Settles O1, by the layout of the words of each operation. -/
theorem decodeEncodeAgree : Obligations.DecodeEncodeAgree := fun _ wf => decode_encode wf

/-! ## An access word is its access and its offset -/

section
variable (a : AccessWord) (v : Word)

theorem offField_lt : offField a < 2 ^ 26 := by
  rw [offField_eq]
  omega

theorem lowField_eq_offField_mod : lowField a = offField a % 4 := by
  rw [lowField_eq, offField_eq]
  omega

theorem accessWord_accessOf : accessWord (accessOf a v) (offField a) = a := by
  have word := a.isLt
  refine accessWord_ext _ _ ?_
  rw [accessWord_toNat _ _ (offField_lt a), offField_eq, accessOf, dirBit_eq]
  by_cases write : 2 ^ 26 ≤ a.toNat
  · simp only [write, decide_true, if_true]
    omega
  · simp only [write, decide_false, Bool.false_eq_true, if_false]
    omega

/-- The data lines that the access does not drive make no difference (R80). -/
theorem decodeAligned_accessData :
    decodeAligned a (accessData (accessOf a v)) = decodeAligned a v := by
  cases dir : dirBit a with
  | false => simp only [decodeAligned, pick, accessOf, dir, Bool.false_eq_true, if_false]
  | true => simp only [accessOf, dir, if_true, accessData]

/-- So what is said of the words of an access at an offset is said of every access word. -/
theorem decodeAligned_eq :
    decodeAligned a v =
      decodeAligned (accessWord (accessOf a v) (offField a)) (accessData (accessOf a v)) := by
  rw [accessWord_accessOf, decodeAligned_accessData]

/-- The words of an access at an offset are the access word and its data, wherever the data count. -/
theorem decode_eq :
    decode a v = decode (accessWord (accessOf a v) (offField a)) (accessData (accessOf a v)) := by
  rw [accessWord_accessOf, decode, decode, decodeAligned_accessData]

theorem choose_accessOf (rd : Instr) (wr : Word → Instr) :
    choose (accessOf a v) rd wr = if dirBit a = true then wr v else rd := by
  rw [accessOf]
  split <;> rfl

end

theorem decode_of_lowField {a : AccessWord} (aligned : lowField a = 0) (v : Word) :
    decode a v = some (decodeAligned a v) :=
  if_pos aligned

/-! ## Operands in range -/

theorem wellFormed_priorityRd {n : Nat} (lo : 1 ≤ n) (hi : n ≤ 1023) :
    (Instr.priorityRd n).wellFormed = true := by
  simp only [Instr.wellFormed, sourceOk, lo, hi, decide_true, Bool.and_self]

theorem wellFormed_pendingRd {w : Nat} (hw : w ≤ 31) : (Instr.pendingRd w).wellFormed = true :=
  decide_eq_true hw

theorem wellFormed_enableRd {c w : Nat} (hc : c ≤ 15871) (hw : w ≤ 31) :
    (Instr.enableRd c w).wellFormed = true := by
  simp only [Instr.wellFormed, contextOk, wordOk, hc, hw, decide_true, Bool.and_self]

theorem wellFormed_thresholdRd {c : Nat} (hc : c ≤ 15871) :
    (Instr.thresholdRd c).wellFormed = true :=
  decide_eq_true hc

theorem wellFormed_claim {c : Nat} (hc : c ≤ 15871) : (Instr.claim c).wellFormed = true :=
  decide_eq_true hc

theorem wellFormed_reservedGap1 {cc w : Nat} (lo : 0x21 ≤ cc) (hi : cc ≤ 0x3F) (hw : w ≤ 31)
    (x : Access) : (Instr.reservedGap1 cc w x).wellFormed = true := by
  simp only [Instr.wellFormed, gap1Ok, wordOk, lo, hi, hw, decide_true, Bool.and_self]

theorem wellFormed_reservedGap2 {cc w : Nat} (lo : 0x3E40 ≤ cc) (hi : cc ≤ 0x3FFF) (hw : w ≤ 31)
    (x : Access) : (Instr.reservedGap2 cc w x).wellFormed = true := by
  simp only [Instr.wellFormed, gap2Ok, wordOk, lo, hi, hw, decide_true, Bool.and_self]

theorem wellFormed_reservedCtx {c r : Nat} (hc : c ≤ 15871) (lo : 2 ≤ r) (hi : r ≤ 1023)
    (x : Access) : (Instr.reservedCtx c r x).wellFormed = true := by
  simp only [Instr.wellFormed, contextOk, blockRegOk, hc, lo, hi, decide_true, Bool.and_self]

/-! ## The operation an offset stands for stands at that offset -/

/-- `i` is a well-formed operation that the access `x` at the offset `off` asks for. -/
structure StandsAt (i : Instr) (x : Access) (off : Nat) : Prop where
  wellFormed : i.wellFormed = true
  offset : offsetOf i = off
  access : accessFor i = x

/-- `rd` reads and `wr` writes one register: they have its operands and its offset in common. -/
structure SameRegister (rd : Instr) (wr : Word → Instr) : Prop where
  read : accessFor rd = .read
  write : ∀ v, accessFor (wr v) = .write v
  wellFormed : ∀ v, (wr v).wellFormed = rd.wellFormed
  offset : ∀ v, offsetOf (wr v) = offsetOf rd

theorem sameRegister_priority (n : Nat) : SameRegister (.priorityRd n) (.priorityWr n) :=
  ⟨rfl, fun _ => rfl, fun _ => rfl, fun _ => rfl⟩

theorem sameRegister_pending (w : Nat) : SameRegister (.pendingRd w) (.pendingWr w) :=
  ⟨rfl, fun _ => rfl, fun _ => rfl, fun _ => rfl⟩

theorem sameRegister_enable (c w : Nat) : SameRegister (.enableRd c w) (.enableWr c w) :=
  ⟨rfl, fun _ => rfl, fun _ => rfl, fun _ => rfl⟩

theorem sameRegister_threshold (c : Nat) : SameRegister (.thresholdRd c) (.thresholdWr c) :=
  ⟨rfl, fun _ => rfl, fun _ => rfl, fun _ => rfl⟩

theorem sameRegister_claimComplete (c : Nat) : SameRegister (.claim c) (.complete c) :=
  ⟨rfl, fun _ => rfl, fun _ => rfl, fun _ => rfl⟩

theorem SameRegister.standsAt_choose {rd : Instr} {wr : Word → Instr} (register : SameRegister rd wr)
    {x : Access} {off : Nat} (wf : rd.wellFormed = true) (offset : offsetOf rd = off) :
    StandsAt (choose x rd wr) x off := by
  cases x with
  | read => exact ⟨wf, offset, register.read⟩
  | write v =>
    exact ⟨(register.wellFormed v).trans wf, (register.offset v).trans offset, register.write v⟩

/-- The decoder of R82 answers with the operation that stands at the offset, block by block. -/
theorem decodeAligned_standsAt (x : Access) {off : Nat} (h : off < 2 ^ 26) (aligned : off % 4 = 0) :
    StandsAt (decodeAligned (accessWord x off) (accessData x)) x off := by
  rw [decodeAligned_accessWord x h]
  split_ifs with low source0 pending gap1 enable gap2 threshold claim
  · exact ⟨rfl, by simp only [offsetOf]; omega, rfl⟩
  · exact (sameRegister_priority _).standsAt_choose (wellFormed_priorityRd (by omega) (by omega))
      (by simp only [offsetOf]; omega)
  · exact (sameRegister_pending _).standsAt_choose (wellFormed_pendingRd (by omega))
      (by simp only [offsetOf]; omega)
  · exact ⟨wellFormed_reservedGap1 (by omega) gap1 (by omega) x, by simp only [offsetOf]; omega, rfl⟩
  · exact (sameRegister_enable _ _).standsAt_choose (wellFormed_enableRd (by omega) (by omega))
      (by simp only [offsetOf]; omega)
  · exact ⟨wellFormed_reservedGap2 (by omega) gap2 (by omega) x, by simp only [offsetOf]; omega, rfl⟩
  · exact (sameRegister_threshold _).standsAt_choose (wellFormed_thresholdRd (by omega))
      (by simp only [offsetOf]; omega)
  · exact (sameRegister_claimComplete _).standsAt_choose (wellFormed_claim (by omega))
      (by simp only [offsetOf]; omega)
  · exact ⟨wellFormed_reservedCtx (by omega) (by omega) (by omega) x, by simp only [offsetOf]; omega,
      rfl⟩

/-- Settles O2: the word is that of its access at its offset, where the operation it decodes to stands. -/
theorem encodeDecodeAgree : Obligations.EncodeDecodeAgree := by
  intro a v i decodes
  obtain ⟨aligned, rfl⟩ : lowField a = 0 ∧ decodeAligned a v = i := by
    simpa only [decode, Option.ite_none_right_eq_some, Option.some.injEq] using decodes
  obtain ⟨wf, offset, access⟩ : StandsAt (decodeAligned a v) (accessOf a v) (offField a) := by
    rw [decodeAligned_eq]
    exact decodeAligned_standsAt _ (offField_lt a) (lowField_eq_offField_mod a ▸ aligned)
  refine ⟨wf, ?_, fun write => ?_⟩
  · rw [encode, access, offset, accessWord_accessOf]
  · rw [encode, access, accessOf, if_pos write, accessData]

/-! ## The blocks of the region -/

/-- An access word decodes to the operation that stands where it points. -/
theorem decode_of_standsAt {a : AccessWord} {v : Word} {i : Instr}
    (stands : StandsAt i (accessOf a v) (offField a)) : decode a v = some i := by
  obtain ⟨wf, offset, access⟩ := stands
  rw [decode_eq, ← offset, ← access]
  exact decode_encode wf

/-- An access word that points at a register decodes to its read or its write, by the direction. -/
theorem SameRegister.decode_eq_ite {rd : Instr} {wr : Word → Instr} (register : SameRegister rd wr)
    {a : AccessWord} (wf : rd.wellFormed = true) (offset : offsetOf rd = offField a) (v : Word) :
    decode a v = some (if dirBit a = true then wr v else rd) := by
  rw [← choose_accessOf]
  exact decode_of_standsAt (register.standsAt_choose wf offset)

section
variable (a : AccessWord)

theorem ccField_eq_offField_div : ccField a = offField a / 128 := by
  rw [ccField_eq, offField_eq]
  omega

theorem ppField_eq_offField_div : ppField a = offField a / 4096 := by
  rw [ppField_eq, offField_eq]
  omega

theorem regField_eq_offField_div_mod : regField a = offField a / 4 % 1024 := by
  rw [regField_eq, offField_eq]
  omega

theorem wordField_eq_offField_div_mod : wordField a = offField a / 4 % 32 := by
  rw [wordField_eq, offField_eq]
  omega

end

/-- Settles O4: an offset of the priority block is four times the number in its bits 11 to 2. -/
theorem sourceNumberFromPriorityOffset : Obligations.SourceNumberFromPriorityOffset := by
  refine ⟨fun a inside aligned => ?_, fun n v lo hi => ⟨?_, ?_⟩⟩
  · have hreg := regField_eq_offField_div_mod a
    rw [lowField_eq_offField_mod] at aligned
    refine ⟨by omega, by omega, fun zero v => ?_, fun nonzero => ?_⟩
    · exact decode_of_standsAt ⟨rfl, by simp only [offsetOf]; omega, rfl⟩
    · exact (sameRegister_priority _).decode_eq_ite (wellFormed_priorityRd (by omega) (by omega))
        (by simp only [offsetOf]; omega)
  · exact decode_encode (wellFormed_priorityRd lo hi)
  · exact decode_encode (i := .priorityWr n v) (wellFormed_priorityRd lo hi)

/-- Settles O5: an offset of the enable block is that of the context and the word in its fields. -/
theorem contextAndWordFromEnableOffset : Obligations.ContextAndWordFromEnableOffset := by
  refine ⟨fun a lo hi aligned => ?_, fun c w v hc hw => ⟨?_, ?_⟩⟩
  · have hcc := ccField_eq_offField_div a
    have hword := wordField_eq_offField_div_mod a
    rw [lowField_eq_offField_mod] at aligned
    exact ⟨by omega, by omega, (sameRegister_enable _ _).decode_eq_ite
      (wellFormed_enableRd (by omega) (by omega)) (by simp only [offsetOf]; omega)⟩
  · exact decode_encode (wellFormed_enableRd hc hw)
  · exact decode_encode (i := .enableWr c w v) (wellFormed_enableRd hc hw)

/-- Settles O6: an offset of the context blocks is that of the context and the register in its fields. -/
theorem contextAndRegisterFromBlockOffset : Obligations.ContextAndRegisterFromBlockOffset := by
  refine ⟨fun a lo aligned => ?_, fun c v hc => ⟨?_, ?_, ?_, ?_⟩⟩
  · have inside := offField_lt a
    have hpp := ppField_eq_offField_div a
    have hreg := regField_eq_offField_div_mod a
    have hc : (offField a - 0x200000) / 0x1000 ≤ 15871 := by omega
    rw [lowField_eq_offField_mod] at aligned
    refine ⟨by omega, by omega, fun threshold => ?_, fun claim => ?_, fun reserved v => ?_⟩
    · exact (sameRegister_threshold _).decode_eq_ite (wellFormed_thresholdRd hc)
        (by simp only [offsetOf]; omega)
    · exact (sameRegister_claimComplete _).decode_eq_ite (wellFormed_claim hc)
        (by simp only [offsetOf]; omega)
    · exact decode_of_standsAt ⟨wellFormed_reservedCtx hc reserved (by omega) _,
        by simp only [offsetOf]; omega, rfl⟩
  · exact decode_encode (wellFormed_thresholdRd hc)
  · exact decode_encode (i := .thresholdWr c v) (wellFormed_thresholdRd hc)
  · exact decode_encode (wellFormed_claim hc)
  · exact decode_encode (i := .complete c v) (wellFormed_claim hc)

/-- Settles O7, by running the decoder on each of the fixed words. -/
theorem wordsFromTheFormatsDecode : Obligations.WordsFromTheFormatsDecode := by
  unfold Obligations.WordsFromTheFormatsDecode
  decide

/-! ## The operation table -/

section
variable (a : AccessWord)

/-- Two access words are equal if their fields of the formats P and C are (R81). -/
theorem eq_iff_pageFields {a b : AccessWord} :
    a = b ↔ dirBit a = dirBit b ∧ ppField a = ppField b ∧ regField a = regField b ∧
      lowField a = lowField b := by
  refine ⟨fun h => by rw [h]; exact ⟨rfl, rfl, rfl, rfl⟩, fun ⟨dir, pp, reg, low⟩ => ?_⟩
  have ha := a.isLt
  have hb := b.isLt
  rw [dirBit_eq, dirBit_eq, decide_eq_decide] at dir
  rw [ppField_eq, ppField_eq] at pp
  rw [regField_eq, regField_eq] at reg
  rw [lowField_eq, lowField_eq] at low
  exact accessWord_ext _ _ (by omega)

/-- Two access words are equal if their fields of the formats B and E are (R81). -/
theorem eq_iff_blockFields {a b : AccessWord} :
    a = b ↔ dirBit a = dirBit b ∧ ccField a = ccField b ∧ wordField a = wordField b ∧
      lowField a = lowField b := by
  refine ⟨fun h => by rw [h]; exact ⟨rfl, rfl, rfl, rfl⟩, fun ⟨dir, cc, word, low⟩ => ?_⟩
  have ha := a.isLt
  have hb := b.isLt
  rw [dirBit_eq, dirBit_eq, decide_eq_decide] at dir
  rw [ccField_eq, ccField_eq] at cc
  rw [wordField_eq, wordField_eq] at word
  rw [lowField_eq, lowField_eq] at low
  exact accessWord_ext _ _ (by omega)

theorem and_eq_iff_pageFields (m b : AccessWord) :
    a &&& m = b ↔ (dirBit a && m.getLsbD 26) = b.getLsbD 26 ∧
      ppField a &&& (m.extractLsb' 12 14).toNat = (b.extractLsb' 12 14).toNat ∧
      regField a &&& (m.extractLsb' 2 10).toNat = (b.extractLsb' 2 10).toNat ∧
      lowField a &&& (m.extractLsb' 0 2).toNat = (b.extractLsb' 0 2).toNat := by
  simp only [eq_iff_pageFields, dirBit, ppField, regField, lowField, BitVec.getLsbD_and,
    BitVec.extractLsb'_and, BitVec.toNat_and]

theorem and_eq_iff_blockFields (m b : AccessWord) :
    a &&& m = b ↔ (dirBit a && m.getLsbD 26) = b.getLsbD 26 ∧
      ccField a &&& (m.extractLsb' 7 19).toNat = (b.extractLsb' 7 19).toNat ∧
      wordField a &&& (m.extractLsb' 2 5).toNat = (b.extractLsb' 2 5).toNat ∧
      lowField a &&& (m.extractLsb' 0 2).toNat = (b.extractLsb' 0 2).toNat := by
  simp only [eq_iff_blockFields, dirBit, ccField, wordField, lowField, BitVec.getLsbD_and,
    BitVec.extractLsb'_and, BitVec.toNat_and]

theorem ccField_and : ccField a &&& 0x7FFFF = ccField a :=
  Nat.and_two_pow_sub_one_of_lt_two_pow (n := 19) (a.extractLsb' 7 19).isLt

theorem ppField_and : ppField a &&& 0x3FFF = ppField a :=
  Nat.and_two_pow_sub_one_of_lt_two_pow (n := 14) (a.extractLsb' 12 14).isLt

theorem regField_and : regField a &&& 0x3FF = regField a :=
  Nat.and_two_pow_sub_one_of_lt_two_pow (n := 10) (a.extractLsb' 2 10).isLt

theorem ppField_eq_ccField_div : ppField a = ccField a / 32 := by
  rw [ppField_eq, ccField_eq]
  omega

theorem ccField_lt : ccField a < 2 ^ 19 := (a.extractLsb' 7 19).isLt

/-- The row of the decoder's operation, by the decoder's own branches (R82, R90). -/
theorem mnemonic_decodeAligned (v : Word) :
    (decodeAligned a v).mnemonic =
      if ccField a ≤ 0x1F then
        if regField a = 0 then "RESERVED.SRC0"
        else if dirBit a = true then "PRIORITY.WR" else "PRIORITY.RD"
      else if ccField a = 0x20 then if dirBit a = true then "PENDING.WR" else "PENDING.RD"
      else if ccField a ≤ 0x3F then "RESERVED.GAP1"
      else if ccField a ≤ 0x3E3F then if dirBit a = true then "ENABLE.WR" else "ENABLE.RD"
      else if ccField a ≤ 0x3FFF then "RESERVED.GAP2"
      else if regField a = 0 then if dirBit a = true then "THRESHOLD.WR" else "THRESHOLD.RD"
      else if regField a = 1 then if dirBit a = true then "COMPLETE" else "CLAIM"
      else "RESERVED.CTX" := by
  simp only [decodeAligned, pick, apply_ite Instr.mnemonic]
  rfl

/-- A row selects an aligned word exactly where the decoder's branches lead to the row's operation: mask and
match fix the fields of the row's format, and the offset condition is that of the branch. -/
theorem rowMatches_iff {r : Row} (row : r ∈ opcodeTable) (aligned : lowField a = 0) (v : Word) :
    rowMatches r a = true ↔ (decodeAligned a v).mnemonic = r.mnemonic := by
  have pp := ppField_eq_ccField_div a
  have cc := ccField_lt a
  rw [mnemonic_decodeAligned]
  simp only [opcodeTable, List.mem_cons, List.not_mem_nil, or_false] at row
  rcases row with rfl | rfl | rfl | rfl | rfl | rfl | rfl | rfl | rfl | rfl | rfl | rfl | rfl | rfl
  -- The masks of the pending rows cut the offset as format B does, those of the others as P and C do.
  case inr.inr.inl | inr.inr.inr.inl =>
    simp only [rowMatches, and_eq_iff_blockFields, BitVec.ofNat_eq_ofNat, BitVec.reduceGetLsb,
      BitVec.reduceExtractLsb', BitVec.reduceToNat, ccField_and, Nat.and_zero, aligned]
    grind
  all_goals
    simp only [rowMatches, and_eq_iff_pageFields, BitVec.ofNat_eq_ofNat, BitVec.reduceGetLsb,
      BitVec.reduceExtractLsb', BitVec.reduceToNat, ppField_and, regField_and, Nat.and_zero, aligned]
    grind

end

/-- No two rows of the table have one mnemonic, and every operation's is there. -/
theorem filter_mnemonic (i : Instr) :
    (opcodeTable.filter fun r => decide (i.mnemonic = r.mnemonic)).map Row.mnemonic = [i.mnemonic] := by
  cases i <;> rfl

/-- Settles O3: the rows that select the word are those with the mnemonic of the decoder's operation. -/
theorem alignedWordSelectsOneTableRow : Obligations.AlignedWordSelectsOneTableRow := by
  refine fun a v aligned => ⟨?_, decode_of_lowField aligned v⟩
  rw [← filter_mnemonic, List.filter_congr fun r row => ?_]
  rw [Bool.eq_iff_iff, rowMatches_iff a row aligned v, decide_eq_true_iff]

/-! ## The meanings of the operations -/

/-- Settles O11: only the meaning that the four reserved classes share can be a refusal. -/
theorem onlyReservedOffsetsStop : Obligations.OnlyReservedOffsetsStop := by
  intro i s
  cases reserved : isReserved i with
  | true =>
    rw [Scope.exec_of_isReserved reserved]
    cases parameter : s.cfg.reservedAccess with
    | refuse => exact .inr ⟨rfl, rfl, Scope.reservedAccess_of_refuse parameter _⟩
    | readZeroIgnoreWrite => exact .inl ⟨_, Scope.reservedAccess_of_readZeroIgnoreWrite parameter _⟩
  | false =>
    left
    cases i with
    | reservedSrc0 a => cases reserved
    | reservedGap1 cc w a => cases reserved
    | reservedGap2 cc w a => cases reserved
    | reservedCtx c r a => cases reserved
    | _ => exact ⟨_, rfl⟩

theorem hasSource_eq_decide (s : State) (n : Nat) :
    s.hasSource n = decide (1 ≤ n ∧ n ≤ s.cfg.nsrc) :=
  Bool.eq_iff_iff.mpr (Banks.hasSource_iff.trans decide_eq_true_iff.symm)

/-- Settles O14: the word packs the pending bits of its sources. -/
theorem pendingReadReturnsPendingBits : Obligations.PendingReadReturnsPendingBits := by
  refine ⟨fun w hw => decode_encode (wellFormed_pendingRd hw), fun w s =>
    ⟨_, rfl, fun b hb => ?_⟩⟩
  rw [getLsbD_wordOfBits, decide_eq_true hb, Bool.true_and, State.ipAt, hasSource_eq_decide, sourceOf]

/-- Settles O16: the word packs the enable bits of its sources for the context. -/
theorem enableReadReturnsEnableBits : Obligations.EnableReadReturnsEnableBits := by
  refine ⟨fun c w hc hw => decode_encode (wellFormed_enableRd hc hw), fun c w s =>
    ⟨_, rfl, fun b hb => ?_⟩⟩
  rw [getLsbD_wordOfBits, decide_eq_true hb, Bool.true_and, State.ieAt, State.hasContext,
    hasSource_eq_decide, ← Bool.and_assoc, ← Bool.decide_and, sourceOf]

/-- A byte of the region is unchanged if what is held by every register at its word is (R28, R57). -/
theorem regByte_congr {s t : State} {off : Nat} (inside : off < 0x4000000)
    (held : ∀ i, StandsAt i .read (off - off % 4) → t.held i = s.held i) :
    t.regByte off = s.regByte off := by
  have word : t.regWord off = s.regWord off :=
    held _ (decodeAligned_standsAt .read (by omega) (by omega))
  rw [State.regByte, State.regByte, word]

/-- The write of an enable word changes no other word of the region. -/
theorem enableWrite_held {s : State} {c w : Nat} {v : Word} {i : Instr} (read : accessFor i = .read)
    (other : i ≠ .enableRd c w) :
    (s.setIeRow c (s.enableRow c w v 32)).held i = s.held i := by
  cases i with
  | enableRd d u =>
    refine BitVec.eq_of_getLsbD_eq fun b hb => ?_
    have elsewhere : ¬ (d = c ∧ sourceOf u b / 32 = w ∧ s.ieWritable c (sourceOf u b) = true) := by
      rintro ⟨rfl, word, _⟩
      have hu : u = w := by
        unfold sourceOf at word
        omega
      exact other (by rw [hu])
    simp only [State.held, getLsbD_wordOfBits, Banks.enableWrite_ieAt, elsewhere, if_false]
  | enableWr d u x => cases read
  | _ => rfl

theorem ieWritable_iff {s : State} {c n : Nat} :
    s.ieWritable c n = true ↔
      c < s.cfg.nctx ∧ (1 ≤ n ∧ n ≤ s.cfg.nsrc) ∧ s.hard0 c n = false ∧ s.hard1 c n = false := by
  simp only [State.ieWritable, Bool.and_eq_true, Bool.not_eq_true', Banks.hasContext_iff,
    Banks.hasSource_iff]

theorem exec_enableWr_of_present {s : State} {c : Nat} (context : s.hasContext c = true) (w : Nat)
    (v : Word) : exec (.enableWr c w v) s = .next (s.setIeRow c (s.enableRow c w v 32)) :=
  congrArg Host.Outcome.next (if_pos context)

theorem exec_enableWr_of_absent {s : State} {c : Nat} (absent : s.hasContext c ≠ true) (w : Nat)
    (v : Word) : exec (.enableWr c w v) s = .next s :=
  congrArg Host.Outcome.next (if_neg absent)

/-- Settles O17, from the enable bits after the write and from what each register of the region holds. -/
theorem enableWriteReplacesWord : Obligations.EnableWriteReplacesWord := by
  refine ⟨fun c w v hc hw => decode_encode (i := .enableWr c w v) (wellFormed_enableRd hc hw),
    fun c w v s => ?_⟩
  by_cases context : c < s.cfg.nctx
  · refine ⟨_, exec_enableWr_of_present (Banks.hasContext_iff.mpr context) w v, rfl,
      fun absent => absurd context absent, fun d n => ?_, fun off inside outside hw => ?_⟩
    · have word : n / 32 = w ↔ 32 * w ≤ n ∧ n < 32 * w + 32 := by omega
      rw [Banks.enableWrite_ieAt]
      refine ite_congr (propext ?_) (fun written => ?_) fun _ => rfl
      · rw [ieWritable_iff, word]
        tauto
      · obtain ⟨_, _, _, _, lo, hi, _⟩ := written
        rw [show n - 32 * w = n % 32 by omega]
    · refine regByte_congr inside fun i stands => enableWrite_held stands.access ?_
      rintro rfl
      have offset := stands.offset
      simp only [offsetOf] at offset
      omega
  · refine ⟨s, exec_enableWr_of_absent (mt Banks.hasContext_iff.mp context) w v, rfl, fun _ => rfl,
      fun d n => ?_, fun _ _ _ _ => rfl⟩
    rw [if_neg]
    rintro ⟨_, present, _⟩
    exact context present

end Sys2Proof.Proofs.Encoding
end

section
/-! PROOFS. The priority registers: what a read returns, what a write stores and leaves unchanged, how the
read-write bits are found, and the order of the sources that the priorities give (R101 to R104). -/

namespace Sys2Proof.Proofs.Priority

open Sys2Proof.Machine Sys2Proof.Proofs.Memory Sys2Proof.Proofs.Encoding

/-! ## The order of the sources -/

theorem prioAt_of_hasSource {s : State} {n : Nat} (source : s.hasSource n = true) :
    s.prioAt n = s.prio.get n :=
  if_pos source

theorem beats_irrefl (s : State) (n : Nat) : s.beats n n = false := by
  rw [Bool.eq_false_iff, ne_eq, s.beats_iff]
  rintro (higher | ⟨_, smaller⟩)
  · exact BitVec.lt_irrefl _ higher
  · exact lt_irrefl n smaller

theorem beats_asymm {s : State} {n m : Nat} (ahead : s.beats n m = true) : s.beats m n = false := by
  rw [Bool.eq_false_iff]
  intro behind
  have cycle : s.beats n n = true := s.beats_trans n m n ahead behind
  rw [beats_irrefl] at cycle
  cases cycle

/-- Settles O28: a source that is ahead is not behind (`beats_asymm`), and one of two is ahead
(`State.beats_or`). -/
theorem beatsIsStrictTotalOrder : Obligations.BeatsIsStrictTotalOrder := by
  refine fun s => ⟨fun n m hn hm => ?_, fun n m different => ?_, beats_irrefl s, s.beats_trans⟩
  · rw [s.beats_iff, prioAt_of_hasSource hn, prioAt_of_hasSource hm, BitVec.lt_def]
  · rcases s.beats_or n m different with ahead | behind
    · rw [ahead, beats_asymm ahead, Bool.not_false]
    · rw [behind, beats_asymm behind, Bool.not_true]

/-! ## The read and the write -/

theorem exec_priorityRd (n : Nat) (s : State) :
    exec (.priorityRd n) s = .next (s.respond (s.prioAt n)) := rfl

theorem exec_priorityWr_of_present {s : State} {n : Nat} (source : s.hasSource n = true) (v : Word) :
    exec (.priorityWr n v) s = .next (s.setPrio n (s.legalPrio n v)) :=
  congrArg Host.Outcome.next (if_pos source)

theorem exec_priorityWr_of_absent {s : State} {n : Nat} (absent : s.hasSource n ≠ true) (v : Word) :
    exec (.priorityWr n v) s = .next s :=
  congrArg Host.Outcome.next (if_neg absent)

/-- Settles O12: the read answers with `prioAt`, which is 0 where there is no source. -/
theorem priorityReadReturnsPriority : Obligations.PriorityReadReturnsPriority := by
  refine ⟨fun n lo hi => decode_encode (wellFormed_priorityRd lo hi), fun n s => ?_⟩
  have value : s.prioAt n = if 1 ≤ n ∧ n ≤ s.cfg.nsrc then s.prio.get n else 0 :=
    if_congr Banks.hasSource_iff rfl rfl
  rw [exec_priorityRd, value, State.respond]

/-- The write of a priority changes no other word of the region. -/
theorem setPrio_held {s : State} {n : Nat} {v : Word} {i : Instr} (read : accessFor i = .read)
    (other : i ≠ .priorityRd n) : (s.setPrio n v).held i = s.held i := by
  cases i with
  | priorityRd m =>
    have elsewhere : m ≠ n := fun same => other (congrArg Instr.priorityRd same)
    exact (s.setPrio_prioAt n v m).trans (if_neg fun written => elsewhere written.1)
  | priorityWr m x => cases read
  | _ => rfl

/-- Settles O13, from the priorities after the write and from what each register of the region holds. -/
theorem priorityWriteStoresLegalValue : Obligations.PriorityWriteStoresLegalValue := by
  refine ⟨fun n v lo hi => decode_encode (i := .priorityWr n v) (wellFormed_priorityRd lo hi),
    fun n v s => ?_⟩
  by_cases source : s.hasSource n = true
  · have present := Banks.hasSource_iff.mp source
    refine ⟨_, exec_priorityWr_of_present source v, rfl, fun absent => absurd present absent,
      fun m => ?_, fun off inside outside => ?_⟩
    · rw [s.setPrio_prioAt]
      refine if_congr (and_congr_right fun same => ?_) rfl rfl
      rw [same, Banks.hasSource_iff]
    · refine regByte_congr inside fun i stands => setPrio_held stands.access ?_
      rintro rfl
      have offset := stands.offset
      simp only [offsetOf] at offset
      omega
  · refine ⟨s, exec_priorityWr_of_absent source v, rfl, fun _ => rfl, fun m => ?_,
      fun _ _ _ => rfl⟩
    rw [if_neg]
    rintro ⟨_, present⟩
    exact source (Banks.hasSource_iff.mpr present)

/-! ## The discovery of the read-write bits -/

/-- A read after a write finds the stored value. -/
theorem exec_priorityRd_setPrio {s : State} {n : Nat} (source : s.hasSource n = true) (v : Word) :
    exec (.priorityRd n) (s.setPrio n v) = .next ((s.setPrio n v).respond v) := by
  rw [exec_priorityRd, s.setPrio_prioAt, if_pos ⟨rfl, source⟩]

theorem warl_allOnes (mask fixed : Word) : warl mask fixed 0xFFFFFFFF = mask ||| fixed :=
  congrArg (· ||| fixed) (BitVec.allOnes_and (x := mask))

theorem warl_zero (mask fixed : Word) : warl mask fixed 0 = fixed := by
  rw [warl, BitVec.ofNat_eq_ofNat, BitVec.zero_and, BitVec.zero_or]

/-- The constant bits cancel, as none of them is read-write (R10). -/
theorem or_xor_of_disjoint {mask fixed : Word} (disjoint : fixed &&& mask = 0) :
    (mask ||| fixed) ^^^ fixed = mask := by
  refine BitVec.eq_of_getLsbD_eq fun i _ => ?_
  have bit : (fixed.getLsbD i && mask.getLsbD i) = false := by
    rw [← BitVec.getLsbD_and, disjoint]
    exact BitVec.getLsbD_zero
  rw [BitVec.getLsbD_xor, BitVec.getLsbD_or]
  cases hf : fixed.getLsbD i with
  | false => rw [Bool.or_false, Bool.xor_false]
  | true =>
    rw [hf, Bool.true_and] at bit
    rw [bit]
    rfl

/-- Settles O26: a legal value is its own legalised value; all ones leave the mask and the constants, zeros
the constants alone. -/
theorem priorityBitsCanBeDiscovered : Obligations.PriorityBitsCanBeDiscovered := by
  intro s n wf lo hi
  have source : s.hasSource n = true := Banks.hasSource_iff.mpr ⟨lo, hi⟩
  refine ⟨fun v legal => ?_, ?_⟩
  · refine ⟨_, exec_priorityWr_of_present source v, ?_⟩
    rw [State.legalPrio, warl_of_legal _ _ _ legal, exec_priorityRd_setPrio source]
  · have ones : s.legalPrio n 0xFFFFFFFF = s.cfg.prioRwMask.get n ||| s.cfg.prioFixed.get n :=
      warl_allOnes _ _
    have zeros : s.legalPrio n 0 = s.cfg.prioFixed.get n := warl_zero _ _
    have still : (s.setPrio n (s.legalPrio n 0xFFFFFFFF)).hasSource n = true := source
    refine ⟨_, _, _, _, exec_priorityWr_of_present source _, exec_priorityRd_setPrio source _,
      exec_priorityWr_of_present still 0, exec_priorityRd_setPrio still _, zeros, ones, ?_⟩
    exact (congrArg₂ (· ^^^ ·) ones zeros).trans (or_xor_of_disjoint (wf.prio_disjoint n lo hi))

end Sys2Proof.Proofs.Priority
end

section
/-! PROOFS. The pending array: a write to it is accepted and changes nothing (R112). -/

namespace Sys2Proof.Proofs.Pending

open Sys2Proof.Machine Sys2Proof.Proofs.Memory Sys2Proof.Proofs.Encoding

theorem wellFormed_pendingWr {w : Nat} (hw : w ≤ 31) (v : Word) :
    (Instr.pendingWr w v).wellFormed = true :=
  ((sameRegister_pending w).wellFormed v).trans (wellFormed_pendingRd hw)

theorem exec_pendingWr (w : Nat) (v : Word) (s : State) : exec (.pendingWr w v) s = .next s := rfl

/-- Settles O15: the write is decoded from the words that encode it, and its meaning is to answer with the
state it is given. -/
theorem pendingWriteChangesNothing : Obligations.PendingWriteChangesNothing :=
  ⟨fun _ v hw => decode_encode (wellFormed_pendingWr hw v), exec_pendingWr⟩

end Sys2Proof.Proofs.Pending
end

section
/-! PROOFS. The enable words: what a read finds after a write (R122, R124), and that the enables and the
threshold of one context have no part in another (R123, R133, R181). -/

namespace Sys2Proof.Proofs.Enable

open Sys2Proof.Machine Sys2Proof.Proofs.Encoding

/-! ## The read after a write -/

theorem exec_enableRd (c w : Nat) (s : State) :
    exec (.enableRd c w) s = .next (s.respond (wordOfBits fun b => s.ieAt c (sourceOf w b))) := rfl

theorem ieAt_of_absent_source {s : State} {n : Nat} (absent : s.hasSource n = false) (c : Nat) :
    s.ieAt c n = false := by
  rw [State.ieAt, absent, Bool.false_and, Bool.and_false]

theorem hasSource_eq_false_iff {s : State} {n : Nat} :
    s.hasSource n = false ↔ n = 0 ∨ s.cfg.nsrc < n := by
  rw [← Bool.not_eq_true, Banks.hasSource_iff]
  omega

/-- A bit that is not read-write keeps its value (R122). -/
theorem enableWrite_ieAt_of_not_ieWritable {s : State} {c n : Nat} (fixed : s.ieWritable c n = false)
    (w : Nat) (v : Word) : (s.setIeRow c (s.enableRow c w v 32)).ieAt c n = s.ieAt c n := by
  rw [Banks.enableWrite_ieAt, if_neg]
  rintro ⟨_, _, writable⟩
  rw [fixed] at writable
  cases writable

/-- The enable bits of the word that is written: there is no source, or the bit is hardwired and the
invariants have its constant (R25), or it is read-write and the data's (R122, R124). -/
theorem enableWrite_ieAt_sourceOf {s : State} {c : Nat} (inv : s.Inv) (context : s.hasContext c = true)
    (w : Nat) (v : Word) {b : Nat} (hb : b < 32) :
    (s.setIeRow c (s.enableRow c w v 32)).ieAt c (sourceOf w b) =
      if sourceOf w b = 0 ∨ s.cfg.nsrc < sourceOf w b then false
      else if s.hard0 c (sourceOf w b) = true then false
      else if s.hard1 c (sourceOf w b) = true then true
      else v.getLsbD b := by
  split
  case isTrue absent =>
    have source : s.hasSource (sourceOf w b) = false := hasSource_eq_false_iff.mpr absent
    rw [enableWrite_ieAt_of_not_ieWritable (by simp [State.ieWritable, source])]
    exact ieAt_of_absent_source source c
  case isFalse present =>
    have source : s.hasSource (sourceOf w b) = true :=
      Bool.eq_true_of_not_eq_false (mt hasSource_eq_false_iff.mp present)
    split
    case isTrue hard0 =>
      rw [enableWrite_ieAt_of_not_ieWritable (by simp [State.ieWritable, hard0])]
      exact inv.ie_hard0 c _ context source hard0
    case isFalse soft0 =>
      split
      case isTrue hard1 =>
        rw [enableWrite_ieAt_of_not_ieWritable (by simp [State.ieWritable, hard1])]
        exact inv.ie_hard1 c _ context source hard1
      case isFalse soft1 =>
        have writable : s.ieWritable c (sourceOf w b) = true := by
          simp [State.ieWritable, context, source, soft0, soft1]
        have word : sourceOf w b / 32 = w := by
          unfold sourceOf
          omega
        have bit : sourceOf w b % 32 = b := by
          unfold sourceOf
          omega
        rw [Banks.enableWrite_ieAt, if_pos ⟨rfl, word, writable⟩, bit]

/-- Settles O27: the read packs the enable bits that the write has left. -/
theorem enableReadBackKeepsHardwiredBits : Obligations.EnableReadBackKeepsHardwiredBits := by
  intro s c w v inv hc
  have context : s.hasContext c = true := Banks.hasContext_iff.mpr hc
  refine ⟨_, _, exec_enableWr_of_present context w v, exec_enableRd c w _, fun b hb => ?_⟩
  rw [getLsbD_wordOfBits, decide_eq_true hb, Bool.true_and]
  exact enableWrite_ieAt_sourceOf inv context w v hb

/-! ## Other contexts -/

theorem exec_thresholdWr_of_present {s : State} {c : Nat} (context : s.hasContext c = true)
    (v : Word) : exec (.thresholdWr c v) s = .next (s.setThr c (s.legalThr c v)) :=
  congrArg Host.Outcome.next (if_pos context)

theorem exec_thresholdWr_of_absent {s : State} {c : Nat} (absent : s.hasContext c ≠ true) (v : Word) :
    exec (.thresholdWr c v) s = .next s :=
  congrArg Host.Outcome.next (if_neg absent)

/-- What a context is notified of and what it can claim read, of all the enables and thresholds, its own
only (R141, R180). -/
theorem eip_and_best_congr {s t : State} {d : Nat} (cfg : t.cfg = s.cfg)
    (prio : ∀ n, t.prioAt n = s.prioAt n) (ip : ∀ n, t.ipAt n = s.ipAt n)
    (ie : ∀ n, t.ieAt d n = s.ieAt d n) (thr : t.thrAt d = s.thrAt d) :
    t.eip d = s.eip d ∧ t.best d = s.best d := by
  constructor
  · refine s.eip_congr t d fun n => ?_
    simp only [State.activeFor, prio, ip, ie, thr]
  · refine s.best_congr t d (congrArg Config.nsrc cfg) (fun m => ?_) fun a b => ?_
    · simp only [State.candidate, prio, ip, ie, cfg]
    · simp only [State.beats, prio]

/-- The write of an enable word leaves the enables of the other contexts (R123). -/
theorem enableWrite_eip_and_best {s : State} {c d : Nat} (other : d ≠ c) (row : Table Bool) :
    (s.setIeRow c row).eip d = s.eip d ∧ (s.setIeRow c row).best d = s.best d := by
  refine eip_and_best_congr rfl (fun _ => rfl) (fun _ => rfl) (fun n => ?_) rfl
  rw [State.setIeRow_ieAt, if_neg other]

/-- The write of a threshold leaves the thresholds of the other contexts (R133). -/
theorem thresholdWrite_eip_and_best {s : State} {c d : Nat} (other : d ≠ c) (v : Word) :
    (s.setThr c v).eip d = s.eip d ∧ (s.setThr c v).best d = s.best d := by
  refine eip_and_best_congr rfl (fun _ => rfl) (fun _ => rfl) (fun _ => rfl) ?_
  rw [State.setThr_thrAt, if_neg fun same => other same.1]

/-- Settles O33: each write leaves what the other context reads; where context `c` is absent, it leaves
the whole state. -/
theorem contextsAreIndependent : Obligations.ContextsAreIndependent := by
  intro s c d w v other
  by_cases context : s.hasContext c = true
  · exact ⟨⟨_, exec_enableWr_of_present context w v, enableWrite_eip_and_best other _⟩,
      ⟨_, exec_thresholdWr_of_present context v, thresholdWrite_eip_and_best other _⟩⟩
  · exact ⟨⟨s, exec_enableWr_of_absent context w v, rfl, rfl⟩,
      ⟨s, exec_thresholdWr_of_absent context v, rfl, rfl⟩⟩

end Sys2Proof.Proofs.Enable
end

section
/-! PROOFS. The priority thresholds: what a read returns, what a write stores and leaves unchanged (R131,
R132, R134). -/

namespace Sys2Proof.Proofs.Threshold

open Sys2Proof.Machine Sys2Proof.Proofs.Memory Sys2Proof.Proofs.Encoding Sys2Proof.Proofs.Enable

theorem wellFormed_thresholdWr {c : Nat} (hc : c ≤ 15871) (v : Word) :
    (Instr.thresholdWr c v).wellFormed = true :=
  ((sameRegister_threshold c).wellFormed v).trans (wellFormed_thresholdRd hc)

theorem exec_thresholdRd (c : Nat) (s : State) :
    exec (.thresholdRd c) s = .next (s.respond (s.thrAt c)) := rfl

/-- Settles O18: the read answers with `thrAt`, which is 0 where there is no context. -/
theorem thresholdReadReturnsThreshold : Obligations.ThresholdReadReturnsThreshold := by
  refine ⟨fun c hc => decode_encode (wellFormed_thresholdRd hc), fun c s => ?_⟩
  have value : s.thrAt c = if c < s.cfg.nctx then s.thr.get c else 0 :=
    if_congr Banks.hasContext_iff rfl rfl
  rw [exec_thresholdRd, value, State.respond]

/-- The write of a threshold changes no other word of the region. -/
theorem setThr_held {s : State} {c : Nat} {v : Word} {i : Instr} (read : accessFor i = .read)
    (other : i ≠ .thresholdRd c) : (s.setThr c v).held i = s.held i := by
  cases i with
  | thresholdRd d =>
    have elsewhere : d ≠ c := fun same => other (congrArg Instr.thresholdRd same)
    exact (s.setThr_thrAt c v d).trans (if_neg fun written => elsewhere written.1)
  | thresholdWr d x => cases read
  | _ => rfl

/-- A byte of the region is unchanged if it lies outside the word of the read `r` and every other read
finds what it found before. -/
theorem regByte_outside_word {s t : State} {r : Instr} {off : Nat} (inside : off < 0x4000000)
    (outside : ¬ (offsetOf r ≤ off ∧ off < offsetOf r + 4))
    (held : ∀ i, accessFor i = .read → i ≠ r → t.held i = s.held i) :
    t.regByte off = s.regByte off := by
  refine regByte_congr inside fun i stands => held i stands.access ?_
  rintro rfl
  have offset := stands.offset
  omega

/-- Settles O19, from the thresholds after the write and from what each register of the region holds. -/
theorem thresholdWriteStoresLegalValue : Obligations.ThresholdWriteStoresLegalValue := by
  refine ⟨fun c v hc => decode_encode (wellFormed_thresholdWr hc v), fun c v s => ?_⟩
  by_cases context : s.hasContext c = true
  · have present := Banks.hasContext_iff.mp context
    refine ⟨_, exec_thresholdWr_of_present context v, rfl, fun absent => absurd present absent,
      fun d => ?_, fun off inside outside =>
        regByte_outside_word (r := .thresholdRd c) inside outside fun _ => setThr_held⟩
    rw [s.setThr_thrAt]
    refine if_congr (and_congr_right fun same => ?_) rfl rfl
    rw [same, Banks.hasContext_iff]
  · refine ⟨s, exec_thresholdWr_of_absent context v, rfl, fun _ => rfl, fun d => ?_,
      fun _ _ _ => rfl⟩
    rw [if_neg]
    rintro ⟨_, present⟩
    exact context (Banks.hasContext_iff.mpr present)

end Sys2Proof.Proofs.Threshold
end

section
/-! PROOFS. Claims and notifications: what the thresholds and EIP have to do with a claim (R143, R144). -/

namespace Sys2Proof.Proofs.Notification

open Sys2Proof.Machine Sys2Proof.Proofs.Memory

theorem activeFor_iff {s : State} {c n : Nat} :
    s.activeFor c n = true ↔ s.ipAt n = true ∧ s.ieAt c n = true ∧ s.thrAt c < s.prioAt n := by
  simp only [State.activeFor, Bool.and_eq_true, decide_eq_true_eq]

/-! ## The thresholds and the claim -/

theorem best_withThr (s : State) (thr' : Table Word) (c : Nat) :
    State.best { s with thr := thr' } c = s.best c :=
  s.best_congr _ c rfl (fun _ => rfl) fun _ _ => rfl

theorem claimed_withThr (s : State) (thr' : Table Word) (n : Nat) :
    State.claimed { s with thr := thr' } n = { s.claimed n with thr := thr' } := by
  unfold State.claimed
  split <;> rfl

/-- A priority above a threshold is not 0, so a claim returns it whether or not it passes over sources of
priority 0. -/
theorem candidate_of_activeFor {s : State} {c n : Nat} (active : s.activeFor c n = true) :
    s.candidate c n = true := by
  obtain ⟨ip, ie, above⟩ := activeFor_iff.mp active
  have positive : 0 < s.prioAt n := Nat.zero_lt_of_lt (BitVec.lt_def.mp above)
  exact candidate_iff.mpr ⟨ip, ie, .inl positive⟩

theorem best_ne_zero_of_candidate {s : State} {c n : Nat} (candidate : s.candidate c n = true) :
    s.best c ≠ 0 := fun zero =>
  best_eq_zero_iff.mp zero ⟨n, candidate⟩

theorem prioAt_le_best {s : State} {c n : Nat} (candidate : s.candidate c n = true) :
    s.prioAt n ≤ s.prioAt (s.best c) := by
  obtain ⟨_, _, ahead⟩ := best_of_ne_zero (best_ne_zero_of_candidate candidate)
  by_cases same : n = s.best c
  · rw [← same]
    exact BitVec.le_refl _
  · rcases (s.beats_iff _ _).mp (ahead n same candidate) with higher | ⟨equal, _⟩
    · exact BitVec.le_of_lt higher
    · rw [equal]
      exact BitVec.le_refl _

/-- Settles O29: `best` reads no threshold, and a source above the threshold is a candidate, behind which
`best` is not. -/
theorem claimIgnoresThreshold : Obligations.ClaimIgnoresThreshold := by
  refine ⟨fun s c thr' => ⟨s.claimed (s.best c), (exec_claim c s).symm, ?_⟩,
    fun s c n ip ie above => ?_⟩
  · calc exec (.claim c) { s with thr := thr' }
        = .next (State.claimed { s with thr := thr' } (State.best { s with thr := thr' } c)) :=
          (exec_claim c _).symm
      _ = .next { s.claimed (s.best c) with thr := thr' } := by rw [best_withThr, claimed_withThr]
  · have candidate := candidate_of_activeFor (activeFor_iff.mpr ⟨ip, ie, above⟩)
    exact ⟨candidate, s.claimed (s.best c), s.best c, (exec_claim c s).symm, rfl,
      best_ne_zero_of_candidate candidate, prioAt_le_best candidate⟩

/-! ## EIP after a claim -/

@[simp] theorem claimed_ieAt (s : State) (m d n : Nat) : (s.claimed m).ieAt d n = s.ieAt d n := by
  rw [claimed_frame]
  rfl

@[simp] theorem claimed_thrAt (s : State) (m d : Nat) : (s.claimed m).thrAt d = s.thrAt d := by
  rw [claimed_frame]
  rfl

@[simp] theorem claimed_prioAt (s : State) (m n : Nat) : (s.claimed m).prioAt n = s.prioAt n := by
  rw [claimed_frame]
  rfl

/-- In every context the source claimed is active no longer, and every other is as it was. -/
theorem claimed_activeFor_iff {s : State} {m d n : Nat} :
    (s.claimed m).activeFor d n = true ↔ n ≠ m ∧ s.activeFor d n = true := by
  by_cases same : n = m
  · simp [activeFor_iff, claimed_ipAt, same]
  · simp [activeFor_iff, claimed_ipAt, same]

/-- Settles O32: EIP says that some source is active, and the claim takes `best` from the active sources. -/
theorem eipAfterClaim : Obligations.EipAfterClaim := by
  intro s t c d claim _
  obtain rfl := eq_claimed_of_exec claim
  rw [State.eip_iff]
  exact exists_congr fun _ => claimed_activeFor_iff

end Sys2Proof.Proofs.Notification
end

section
/-! PROOFS. The interrupt completion: what it frees and leaves unchanged (R151, R152), and that it asks the
enable bit and nothing else (R153). -/

namespace Sys2Proof.Proofs.Complete

open Sys2Proof.Machine Sys2Proof.Proofs.Memory Sys2Proof.Proofs.Encoding

/-! ## The state after a completion -/

theorem wellFormed_complete {c : Nat} (hc : c ≤ 15871) (v : Word) :
    (Instr.complete c v).wellFormed = true :=
  ((sameRegister_claimComplete c).wellFormed v).trans (wellFormed_claim hc)

theorem ieAt_iff {s : State} {c n : Nat} :
    s.ieAt c n = true ↔
      c < s.cfg.nctx ∧ 1 ≤ n ∧ n ≤ s.cfg.nsrc ∧ (s.ie.get c).get n = true := by
  simp only [State.ieAt, Bool.and_eq_true, Banks.hasContext_iff, Banks.hasSource_iff, and_assoc]

/-- The state a completion answers with (`exec_complete`). -/
def completed (s : State) (c : Nat) (v : Word) : State :=
  if s.ieAt c v.toNat = true then s.setBusy v.toNat false else s

theorem exec_complete (c : Nat) (v : Word) (s : State) :
    exec (.complete c v) s = .next (completed s c v) := rfl

theorem completed_of_enabled {s : State} {c : Nat} {v : Word} (enabled : s.ieAt c v.toNat = true) :
    completed s c v = s.setBusy v.toNat false := if_pos enabled

theorem completed_of_disabled {s : State} {c : Nat} {v : Word} (disabled : ¬ s.ieAt c v.toNat = true) :
    completed s c v = s := if_neg disabled

/-- Of all the state, a completion writes only the bank of the busy gateways. -/
theorem completed_frame (s : State) (c : Nat) (v : Word) :
    completed s c v = { s with gwBusy := (completed s c v).gwBusy } := by
  unfold completed
  split <;> rfl

@[simp] theorem completed_ieAt (s : State) (c : Nat) (v : Word) (d n : Nat) :
    (completed s c v).ieAt d n = s.ieAt d n := by
  rw [completed_frame]
  rfl

/-- The gateways are no part of the region (R28, R31). -/
theorem completed_held (s : State) (c : Nat) (v : Word) (i : Instr) :
    (completed s c v).held i = s.held i := by
  rw [completed_frame]
  cases i <;> rfl

theorem completed_regByte (s : State) (c : Nat) (v : Word) (off : Nat) :
    (completed s c v).regByte off = s.regByte off := by
  simp only [State.regByte, State.regWord, completed_held]

/-- A gateway is busy after a completion if it was before and the completion does not free it. -/
theorem completed_busyAt_iff {s : State} {c : Nat} {v : Word} {m : Nat} :
    (completed s c v).busyAt m = true ↔
      s.busyAt m = true ∧ ¬ (m = v.toNat ∧ s.ieAt c m = true) := by
  by_cases enabled : s.ieAt c v.toNat = true
  · rw [completed_of_enabled enabled, State.setBusy_busyAt]
    by_cases named : m = v.toNat
    · simp [named, enabled]
    · simp [named]
  · rw [completed_of_disabled enabled]
    refine (and_iff_left ?_).symm
    rintro ⟨rfl, accepted⟩
    exact enabled accepted

/-- The same, in the form of R151: what the completion frees is idle, every other gateway is as it was. -/
theorem completed_busyAt (s : State) (c : Nat) (v : Word) (m : Nat) :
    (completed s c v).busyAt m =
      if m = v.toNat ∧ s.ieAt c m = true then false else s.busyAt m := by
  rw [Bool.eq_iff_iff, completed_busyAt_iff]
  split
  case isTrue freed => exact iff_of_false (fun busy => busy.2 freed) Bool.false_ne_true
  case isFalse kept => exact and_iff_left kept

/-- Settles O21: `ieAt` is the condition of R151, and the state after is that of `completed`. -/
theorem completeFreesEnabledGateway : Obligations.CompleteFreesEnabledGateway := by
  refine ⟨fun c v hc => decode_encode (wellFormed_complete hc v), fun c v s =>
    ⟨completed s c v, exec_complete c v s, completed_frame s c v, fun ignored => ?_, fun m => ?_,
      completed_regByte s c v⟩⟩
  · exact completed_of_disabled (mt ieAt_iff.mp ignored)
  · rw [completed_busyAt]
    exact if_congr (and_congr_right fun _ => ieAt_iff) rfl rfl

/-! ## Completions in any order and number -/

theorem completed_comm_busyAt (s : State) (c d : Nat) (v w : Word) (m : Nat) :
    (completed (completed s c v) d w).busyAt m = (completed (completed s d w) c v).busyAt m := by
  rw [Bool.eq_iff_iff]
  simp only [completed_busyAt_iff, completed_ieAt]
  exact and_right_comm

theorem completed_completed_busyAt (s : State) (c : Nat) (v : Word) (m : Nat) :
    (completed (completed s c v) c v).busyAt m = (completed s c v).busyAt m := by
  rw [Bool.eq_iff_iff]
  simp only [completed_busyAt_iff, completed_ieAt, and_assoc, and_self]

/-- Settles O22: the enable bit reads neither the pending nor the busy bits, so it is the same for every such
bank and after every completion. -/
theorem completionIsNotCheckedAgainstClaims : Obligations.CompletionIsNotCheckedAgainstClaims := by
  refine ⟨fun s c v ip' busy' enabled => ?_, fun s c d v w => ?_, fun s c v => ?_⟩
  · have accepted : State.ieAt { s with ip := ip', gwBusy := busy' } c v.toNat = true := enabled
    refine ⟨_, exec_complete c v _, ?_, ?_⟩
    · rw [completed_busyAt, if_pos ⟨rfl, accepted⟩]
    · rw [completed_frame]
  · exact ⟨_, _, _, _, exec_complete c v s, exec_complete d w _, exec_complete d w s,
      exec_complete c v _, completed_comm_busyAt s c d v w⟩
  · exact ⟨_, _, exec_complete c v s, exec_complete c v _, completed_completed_busyAt s c v⟩

end Sys2Proof.Proofs.Complete
end

section
/-! PROOFS. The gateways: what the PLIC's own steps and the environment do at them (R162 to R169), that a
machine left alone comes to rest (R170, R183), and that a fair run forwards every request (R170). -/

namespace Sys2Proof.Proofs.Gateways

open Sys2Proof.Machine Sys2Proof.Proofs.Banks

/-! ## When a gateway can forward -/

theorem busyAt_of_source {s : State} {n : Nat} (source : s.hasSource n = true) :
    s.busyAt n = s.gwBusy.get n := by
  rw [State.busyAt, source, Bool.true_and]

theorem sigAt_of_source {s : State} {n : Nat} (source : s.hasSource n = true) :
    s.sigAt n = s.sig.get n := by
  rw [State.sigAt, source, Bool.true_and]

theorem counts_iff {s : State} {n : Nat} :
    s.counts n = true ↔ s.hasSource n = true ∧ s.kindOf n = .edgeCount := by
  simp only [State.counts, Bool.and_eq_true, decide_eq_true_eq]

theorem countAt_of_counts {s : State} {n : Nat} (counts : s.counts n = true) :
    s.countAt n = s.gwCount.get n := if_pos counts

/-- The condition of GW.LEVEL (R163). -/
theorem levelEnabled_iff {s : State} {n : Nat} :
    s.levelEnabled n = true ↔ s.hasSource n = true ∧ s.kindOf n = .level ∧ s.busyAt n = false ∧
      s.sigAt n = true := by
  simp only [State.levelEnabled, Bool.and_eq_true, decide_eq_true_eq, Bool.not_eq_true']

/-- The condition of GW.COUNTED (R167). -/
theorem countedEnabled_iff {s : State} {n : Nat} :
    s.countedEnabled n = true ↔ s.hasSource n = true ∧ s.kindOf n = .edgeCount ∧
      s.busyAt n = false ∧ 0 < s.countAt n := by
  simp only [State.countedEnabled, Bool.and_eq_true, decide_eq_true_eq, Bool.not_eq_true']

/-! ## The steps as updates -/

theorem runAgent_of_disabled {s : State} {a : AgentStep} (disabled : s.agentEnabled a = false) :
    runAgent a s = s := by
  rcases runAgent_cases a s with ⟨_, same⟩ | ⟨n, rfl, enabled, _⟩ | ⟨n, rfl, enabled, _⟩ |
    ⟨c, k, rfl, enabled, _⟩
  · exact same
  all_goals exact absurd (disabled.symm.trans enabled) Bool.false_ne_true

theorem runAgent_gwLevel {s : State} {n : Nat} (enabled : s.levelEnabled n = true) :
    runAgent (.gwLevel n) s = s.forward n := if_pos enabled

theorem runAgent_gwCounted {s : State} {n : Nat} (enabled : s.countedEnabled n = true) :
    runAgent (.gwCounted n) s = (s.forward n).setCount n (s.countAt n - 1) := if_pos enabled

theorem runAgent_notify {s : State} {c k : Nat} (enabled : s.notifyEnabled c k = true) :
    runAgent (.notify c k) s = s.deliver c k := if_pos enabled

theorem runAgent_todo (a : AgentStep) (s : State) : (runAgent a s).todo = s.todo := by
  rcases runAgent_cases a s with ⟨_, runs⟩ | ⟨_, _, _, runs⟩ | ⟨_, _, _, runs⟩ | ⟨_, _, _, _, runs⟩
  all_goals exact (congrArg State.todo runs).trans rfl

theorem gwEdge_of_level {s : State} {n : Nat} (kind : s.kindOf n = .level) : gwEdge n s = s := by
  rcases gwEdge_cases n s with same | ⟨_, _, edge, _⟩ | ⟨_, _, counting, _⟩
  · exact same
  · exact absurd kind edge
  · simp [kind] at counting

theorem gwEdge_of_idle {s : State} {n : Nat} (source : s.hasSource n = true)
    (idle : s.busyAt n = false) (edge : s.kindOf n ≠ .level) : gwEdge n s = s.forward n := by
  cases kind : s.kindOf n with
  | level => exact absurd kind edge
  | edgeIgnore => simp [gwEdge, source, kind, idle]
  | edgeCount => simp [gwEdge, source, kind, idle]

theorem gwEdge_of_busy_counting {s : State} {n : Nat} (source : s.hasSource n = true)
    (busy : s.busyAt n = true) (kind : s.kindOf n = .edgeCount) :
    gwEdge n s = s.setCount n (min (s.countAt n + 1) (s.cfg.gwCountMax.get n)) := by
  simp only [gwEdge, source, kind, busy, if_true]

theorem gwEdge_of_busy_ignoring {s : State} {n : Nat} (source : s.hasSource n = true)
    (busy : s.busyAt n = true) (kind : s.kindOf n = .edgeIgnore) : gwEdge n s = s := by
  simp only [gwEdge, source, kind, busy, if_true]

/-- A forwarded request sets both bits of its source, and those of no other (R162, R163). -/
theorem forward_ipAt_of_source {s : State} {n : Nat} (source : s.hasSource n = true) (m : Nat) :
    (s.forward n).ipAt m = if m = n then true else s.ipAt m := by
  rw [forward_ipAt]
  exact ite_congr rfl (fun named => named ▸ source) fun _ => rfl

theorem forward_busyAt_of_source {s : State} {n : Nat} (source : s.hasSource n = true) (m : Nat) :
    (s.forward n).busyAt m = if m = n then true else s.busyAt m := by
  rw [forward_busyAt]
  exact ite_congr rfl (fun named => named ▸ source) fun _ => rfl

/-! ## The steps as scheduled -/

theorem step_scheduled_agent {s : State} {a : AgentStep} {rest : List Event}
    (turn : s.todo = .agent a :: rest) :
    step s = .next (noteEip (s.setTodo rest) (runAgent a (s.setTodo rest))) :=
  Scope.step_of_todo turn

theorem step_scheduled_env {s : State} {e : EnvStep} {rest : List Event}
    (turn : s.todo = .env e :: rest) :
    step s = .next (noteEip (s.setTodo rest) (runEnv e (s.setTodo rest))) :=
  Scope.step_of_todo turn

/-- An edge and a decoded message are one event at the gateway they name (R168). -/
theorem step_scheduled_edge {s : State} {n : Nat} {rest : List Event}
    (turn : s.todo = .env (.edge n) :: rest ∨ s.todo = .env (.msi n) :: rest) :
    step s = .next (noteEip (s.setTodo rest) (gwEdge n (s.setTodo rest))) :=
  turn.elim step_scheduled_env step_scheduled_env

/-- Where a step changes no `eip`, it queues nothing. -/
theorem noteEip_self (s : State) : noteEip s s = s := noteEip_same s s fun _ => rfl

/-- Settles O38: what is passed over changes no `eip`, so nothing is queued either. -/
theorem disabledAgentStepsArePassedOver : Obligations.DisabledAgentStepsArePassedOver := by
  intro s a rest turn disabled
  have off : (s.setTodo rest).agentEnabled a = false := by cases a <;> exact disabled
  rw [step_scheduled_agent turn, runAgent_of_disabled off, noteEip_self]
  rfl

/-- Settles O34, from the condition `levelEnabled_iff` and the two bits of `forward`. -/
theorem levelGatewayForwards : Obligations.LevelGatewayForwards := by
  have condition : ∀ (s : State) (n : Nat), s.agentEnabled (.gwLevel n) = true ↔
      1 ≤ n ∧ n ≤ s.cfg.nsrc ∧ s.cfg.gwKind.get n = .level ∧ s.gwBusy.get n = false ∧
        s.sig.get n = true := by
    intro s n
    rw [State.agentEnabled, levelEnabled_iff, hasSource_iff, and_assoc]
    refine and_congr_right fun pos => and_congr_right fun le => ?_
    have source : s.hasSource n = true := hasSource_iff.mpr ⟨pos, le⟩
    rw [busyAt_of_source source, sigAt_of_source source]
    rfl
  refine ⟨condition, fun s n rest turn pos le kind idle sig => ?_⟩
  have source : (s.setTodo rest).hasSource n = true := hasSource_iff.mpr ⟨pos, le⟩
  have enabled : (s.setTodo rest).levelEnabled n = true :=
    (condition (s.setTodo rest) n).mpr ⟨pos, le, kind, idle, sig⟩
  refine ⟨_, step_scheduled_agent turn, ?_⟩
  rw [runAgent_gwLevel enabled]
  exact ⟨rfl, forward_ipAt_of_source source, forward_busyAt_of_source source⟩

/-- Settles O36, from the condition `countedEnabled_iff`; taking the edge from the counter leaves both bits
of `forward` as they are. -/
theorem countingGatewayForwardsCountedEdge : Obligations.CountingGatewayForwardsCountedEdge := by
  have condition : ∀ (s : State) (n : Nat), s.agentEnabled (.gwCounted n) = true ↔
      1 ≤ n ∧ n ≤ s.cfg.nsrc ∧ s.cfg.gwKind.get n = .edgeCount ∧ s.gwBusy.get n = false ∧
        0 < s.gwCount.get n := by
    intro s n
    rw [State.agentEnabled, countedEnabled_iff, hasSource_iff, and_assoc]
    refine and_congr_right fun pos => and_congr_right fun le => and_congr_right fun kind => ?_
    have source : s.hasSource n = true := hasSource_iff.mpr ⟨pos, le⟩
    rw [busyAt_of_source source, countAt_of_counts (counts_iff.mpr ⟨source, kind⟩)]
  refine ⟨condition, fun s n rest turn pos le kind idle waiting => ?_⟩
  have source : (s.setTodo rest).hasSource n = true := hasSource_iff.mpr ⟨pos, le⟩
  have counts : (s.setTodo rest).counts n = true := counts_iff.mpr ⟨source, kind⟩
  have enabled : (s.setTodo rest).countedEnabled n = true :=
    (condition (s.setTodo rest) n).mpr ⟨pos, le, kind, idle, waiting⟩
  refine ⟨_, step_scheduled_agent turn, ?_⟩
  rw [runAgent_gwCounted enabled]
  refine ⟨rfl, forward_ipAt_of_source source, forward_busyAt_of_source source, fun m => ?_⟩
  rw [noteEip_countAt, State.setCount_countAt, countAt_of_counts counts]
  exact if_congr (and_iff_left_of_imp fun named => named ▸ counts) rfl rfl

/-- Settles O35: the three answers of an edge gateway (`gwEdge_of_idle`, `gwEdge_of_busy_counting`,
`gwEdge_of_busy_ignoring`); the last two change no `eip`. -/
theorem edgeGatewayForwardsCountsOrIgnores : Obligations.EdgeGatewayForwardsCountsOrIgnores := by
  intro s n rest turn pos le edge
  have source : (s.setTodo rest).hasSource n = true := hasSource_iff.mpr ⟨pos, le⟩
  rw [step_scheduled_edge turn, ← State.setTodo_gwBusy s rest, ← busyAt_of_source source]
  refine ⟨fun idle => ⟨_, rfl, ?_⟩, fun busy kind => ⟨_, rfl, ?_⟩, fun busy kind => ?_⟩
  · rw [gwEdge_of_idle source idle edge]
    exact ⟨rfl, forward_ipAt_of_source source, forward_busyAt_of_source source⟩
  · have counts : (s.setTodo rest).counts n = true := counts_iff.mpr ⟨source, kind⟩
    rw [gwEdge_of_busy_counting source busy kind, noteEip_same _ _ (State.setCount_eip _ _ _)]
    refine ⟨rfl, fun m => ?_⟩
    rw [State.setCount_countAt, countAt_of_counts counts]
    exact if_congr (and_iff_left_of_imp fun named => named ▸ counts) rfl rfl
  · rw [gwEdge_of_busy_ignoring source busy kind, noteEip_self]
    rfl

/-- Settles O37: a step of the environment is always answered, and neither a level nor an edge at a level
gateway changes an `eip`. -/
theorem environmentStepsAreNeverRefused : Obligations.EnvironmentStepsAreNeverRefused := by
  refine ⟨fun s e rest turn => ⟨_, step_scheduled_env turn⟩,
    fun s n l rest turn pos le => ⟨_, step_scheduled_env turn, ?_⟩, fun s n rest turn kind => ?_⟩
  · have source : (s.setTodo rest).hasSource n = true := hasSource_iff.mpr ⟨pos, le⟩
    have sets : runEnv (.sig n l) (s.setTodo rest) = (s.setTodo rest).setSig n l := if_pos source
    rw [sets, noteEip_same _ _ (State.setSig_eip _ n l)]
    refine ⟨rfl, fun m => ?_⟩
    rw [State.setSig_sigAt]
    exact ite_congr rfl (fun named => by rw [named, source, Bool.true_and]) fun _ => rfl
  · have ignored : gwEdge n (s.setTodo rest) = s.setTodo rest := gwEdge_of_level kind
    rw [step_scheduled_edge turn, ignored, noteEip_self]
    rfl

/-! ## What forwards a request and what frees a gateway -/

/-- Settles O43: of all that a step can do to a source (`step_request`), only a forwarded request sets a bit,
and only a completion frees the gateway. -/
theorem gatewayForwardsOnlyWhenFreed : Obligations.GatewayForwardsOnlyWhenFreed := by
  intro s t n h
  rcases step_request h n with ⟨keepIp, keepBusy⟩ | ⟨idle, busy, pending⟩ |
    ⟨_, _, _, _, cleared, keepBusy⟩ | ⟨c, v, next, named, enabled, keepIp, freed⟩
  · rw [keepIp, keepBusy]
    simp +contextual
  · simp [idle, busy, pending]
  · rw [cleared, keepBusy]
    simp +contextual
  · refine ⟨fun before after => ?_, fun _ busy => ?_, fun _ _ => ⟨c, v, next, named, enabled⟩⟩
    · simp [keepIp, before] at after
    · simp [freed] at busy

theorem forwarded_forward {s : State} {n : Nat} (source : s.hasSource n = true)
    (idle : s.busyAt n = false) : Forwarded s (s.forward n) n :=
  ⟨idle, (forward_busyAt_of_source source n).trans (if_pos rfl),
    (forward_ipAt_of_source source n).trans (if_pos rfl)⟩

/-- The step of the PLIC's own forwards a request of source `n` when it is taken. -/
def forwardsFor (n : Nat) (a : AgentStep) : Prop := a = .gwLevel n ∨ a = .gwCounted n

/-- A step of the PLIC's own that is taken is run, enabled, on the registers as they are. -/
theorem takes_update {s t : State} {a : AgentStep} (turn : s.takes a) (h : step s = .next t) :
    ∃ r, SameMachine s r ∧ r.agentEnabled a = true ∧ t = noteEip r (runAgent a r) := by
  obtain ⟨next, enabled⟩ := turn
  obtain ⟨r, hr, run⟩ := step_agent s a next
  refine ⟨r, hr, ?_, Host.Outcome.next.inj (h.symm.trans run)⟩
  rw [hr]
  cases a <;> exact enabled

/-- A gateway step that is taken forwards the request of its source (R163, R167). -/
theorem takes_forwards {s t : State} {a : AgentStep} {n : Nat} (gateway : forwardsFor n a)
    (turn : s.takes a) (h : step s = .next t) : Forwarded s t n := by
  obtain ⟨r, hr, enabled, rfl⟩ := takes_update turn h
  have same : s.busyAt n = r.busyAt n := by rw [hr]; rfl
  rw [Forwarded, same]
  rcases gateway with rfl | rfl
  · obtain ⟨source, _, idle, _⟩ := levelEnabled_iff.mp enabled
    rw [runAgent_gwLevel enabled]
    exact forwarded_forward source idle
  · obtain ⟨source, _, idle, _⟩ := countedEnabled_iff.mp enabled
    rw [runAgent_gwCounted enabled]
    exact forwarded_forward source idle

theorem notifyEnabled_iff {s : State} {c k : Nat} :
    s.notifyEnabled c k = true ↔ 1 ≤ k ∧ k ≤ (s.nqAt c).length := by
  simp only [State.notifyEnabled, Bool.and_eq_true, decide_eq_true_eq]

theorem hasContext_of_notifyEnabled {s : State} {c k : Nat} (enabled : s.notifyEnabled c k = true) :
    s.hasContext c = true := by
  by_contra absent
  obtain ⟨pos, le⟩ := notifyEnabled_iff.mp enabled
  simp only [State.nqAt, if_neg absent, List.length_nil] at le
  omega

/-- A notification that is taken removes what it delivers from the queue of its context, and as it changes
no `eip` that is all (R182). -/
theorem takes_notify_nqAt {s t : State} {c k : Nat} (turn : s.takes (.notify c k))
    (h : step s = .next t) (d : Nat) :
    t.nqAt d = if d = c then (s.nqAt c).drop k else s.nqAt d := by
  obtain ⟨r, hr, enabled, rfl⟩ := takes_update turn h
  have context : r.hasContext c = true := hasContext_of_notifyEnabled enabled
  have same : s.nqAt = r.nqAt := by rw [hr]; rfl
  have quiet : ∀ e, (r.deliver c k).eip e = r.eip e := fun _ => rfl
  rw [runAgent_notify enabled, noteEip_same _ _ quiet, State.deliver, State.setNq_nqAt, same]
  exact if_congr (and_iff_left_of_imp fun named => named ▸ context) rfl rfl

/-! ## A machine that is left alone -/

theorem not_nextIs_of_todo_nil {s : State} {i : Instr} (alone : s.todo = []) : ¬ s.nextIs i := by
  rintro ⟨b, rest, turn, _⟩
  exact List.cons_ne_nil _ _ (turn.symm.trans alone)

/-- Left alone, the machine schedules nothing itself. -/
theorem step_keeps_alone {s t : State} (alone : s.todo = []) (h : step s = .next t) :
    t.todo = [] := by
  have moved : step s = .next (idleStep s) := by simp only [step, alone]
  obtain rfl := Host.Outcome.next.inj (h.symm.trans moved)
  rcases idleStep_cases s with ⟨_, rests⟩ | ⟨a, _, runs⟩
  · rw [rests, alone]
  · rw [runs, noteEip_todo, runAgent_todo, State.nextChoice_todo, alone]

theorem atRest_iff {s : State} :
    s.atRest = true ↔ s.todo = [] ∧ ∀ a, s.agentEnabled a = false := by
  simp only [State.atRest, Bool.and_eq_true, List.isEmpty_iff, List.eq_nil_iff_forall_not_mem,
    enabledSteps_mem, Bool.not_eq_true]

/-- At rest nothing is enabled to be chosen. -/
theorem step_of_atRest {s : State} (rest : s.atRest = true) : step s = .next s := by
  obtain ⟨alone, disabled⟩ := atRest_iff.mp rest
  rcases idleChoice_cases s with ⟨_, none⟩ | ⟨a, enabled, _⟩
  · exact step_rest s (by simp only [State.nextEvent, alone, none, Option.map_none])
  · exact absurd ((disabled a).symm.trans enabled) Bool.false_ne_true

theorem nqAt_of_atRest {s : State} (rest : s.atRest = true) (c : Nat) : s.nqAt c = [] := by
  by_contra waiting
  exact absurd (((atRest_iff.mp rest).2 (.notify c 1)).symm.trans (Scope.notifyEnabled_one waiting))
    Bool.false_ne_true

/-- Left alone, the machine is at rest or takes one of its own enabled steps. -/
theorem atRest_or_takes {s : State} (alone : s.todo = []) :
    s.atRest = true ∨ ∃ a, s.takes a := by
  rcases idleChoice_cases s with ⟨empty, _⟩ | ⟨a, enabled, chosen⟩
  · exact .inl (by simp only [State.atRest, alone, empty, List.isEmpty_nil, Bool.and_self])
  · exact .inr ⟨a, by simp only [State.nextEvent, alone, chosen, Option.map_some], enabled⟩

theorem takes_answered {s : State} {a : AgentStep} (turn : s.takes a) : ∃ t, step s = .next t := by
  obtain ⟨r, _, run⟩ := step_agent s a turn.1
  exact ⟨_, run⟩

/-- Left alone, a busy gateway stays busy: no completion arrives (R162). -/
theorem step_keeps_busy {s t : State} (alone : s.todo = []) (h : step s = .next t) (n : Nat)
    (busy : s.busyAt n = true) : t.busyAt n = true := by
  rcases step_request h n with ⟨_, keep⟩ | ⟨_, set, _⟩ | ⟨c, next, _⟩ | ⟨c, v, next, _⟩
  · rw [keep, busy]
  · exact set
  · exact absurd next (not_nextIs_of_todo_nil alone)
  · exact absurd next (not_nextIs_of_todo_nil alone)

/-! ## The bound on the steps to rest -/

theorem idleGateways_eq_sum (s : State) (k : Nat) :
    idleGateways s k = ∑ i ∈ Finset.range k, if s.busyAt (i + 1) then 0 else 1 := by
  induction k with
  | zero => rfl
  | succ k ih => rw [Finset.sum_range_succ, ← ih, idleGateways, Nat.add_comm]

theorem queuedChanges_eq_sum (s : State) (k : Nat) :
    queuedChanges s k = ∑ c ∈ Finset.range k, (s.nqAt c).length := by
  induction k with
  | zero => rfl
  | succ k ih => rw [Finset.sum_range_succ, ← ih, queuedChanges, Nat.add_comm]

/-- Where the busy gateways stay busy and one more of 1..k is busy, fewer are idle. -/
theorem idleGateways_lt {s t : State} {n k : Nat}
    (busier : ∀ m, s.busyAt m = true → t.busyAt m = true) (pos : 1 ≤ n) (le : n ≤ k)
    (idle : s.busyAt n = false) (busy : t.busyAt n = true) :
    idleGateways t k < idleGateways s k := by
  rw [idleGateways_eq_sum, idleGateways_eq_sum]
  refine Finset.sum_lt_sum (fun i _ => ?_) ⟨n - 1, Finset.mem_range.mpr (by omega), ?_⟩
  · cases before : s.busyAt (i + 1) with
    | true => simp [busier _ before]
    | false => split <;> simp
  · simp [Nat.sub_add_cancel pos, idle, busy]

/-- A step queues at most one change for each context (R182). -/
theorem queuedChanges_step_le {s t : State} (h : step s = .next t) :
    queuedChanges t s.cfg.nctx ≤ queuedChanges s s.cfg.nctx + s.cfg.nctx := by
  have grown : ∀ c ∈ Finset.range s.cfg.nctx, (t.nqAt c).length ≤ (s.nqAt c).length + 1 := by
    intro c hc
    obtain ⟨j, _, queue, _⟩ := queueIsTheHistoryOfEip s t c h (Finset.mem_range.mp hc)
    rw [queue, List.length_append, List.length_drop]
    split <;> simp only [List.length_nil, List.length_singleton] <;> omega
  rw [queuedChanges_eq_sum, queuedChanges_eq_sum]
  calc ∑ c ∈ Finset.range s.cfg.nctx, (t.nqAt c).length
      ≤ ∑ c ∈ Finset.range s.cfg.nctx, ((s.nqAt c).length + 1) := Finset.sum_le_sum grown
    _ = _ := by simp [Finset.sum_add_distrib]

/-- A step that forwards a request pays for the changes it queues with the gateway it makes busy. -/
theorem restBound_lt_of_forwarded {s t : State} {n : Nat} (alone : s.todo = [])
    (h : step s = .next t) (forwarded : Forwarded s t n) : t.restBound < s.restBound := by
  obtain ⟨idle, busy, _⟩ := forwarded
  have source : s.hasSource n = true := by
    rw [State.busyAt, Bool.and_eq_true, step_hasSource h] at busy
    exact busy.1
  obtain ⟨pos, le⟩ := hasSource_iff.mp source
  have fewer := idleGateways_lt (step_keeps_busy alone h) pos le idle busy
  have queued := queuedChanges_step_le h
  have paid := Nat.mul_le_mul_right (s.cfg.nctx + 1) fewer
  rw [Nat.succ_mul] at paid
  rw [State.restBound, State.restBound, Scope.step_keeps_cfg h]
  omega

/-- A delivery leaves the gateways as they are and the queue of its context shorter. -/
theorem restBound_lt_of_notify {s t : State} {c k : Nat} (turn : s.takes (.notify c k))
    (h : step s = .next t) : t.restBound < s.restBound := by
  have enabled : s.notifyEnabled c k = true := turn.2
  obtain ⟨pos, le⟩ := notifyEnabled_iff.mp enabled
  have exist : c < s.cfg.nctx := hasContext_iff.mp (hasContext_of_notifyEnabled enabled)
  have shorter : ∀ d, (t.nqAt d).length = (s.nqAt d).length - if d = c then k else 0 := by
    intro d
    rw [takes_notify_nqAt turn h]
    split
    case isTrue named => rw [named, List.length_drop]
    case isFalse => rfl
  have queued : queuedChanges t s.cfg.nctx < queuedChanges s s.cfg.nctx := by
    rw [queuedChanges_eq_sum, queuedChanges_eq_sum]
    refine Finset.sum_lt_sum (fun d _ => ?_) ⟨c, Finset.mem_range.mpr exist, ?_⟩
    · rw [shorter]
      exact Nat.sub_le _ _
    · rw [shorter, if_pos rfl]
      omega
  have same : idleGateways t s.cfg.nsrc = idleGateways s s.cfg.nsrc := by
    rw [idleGateways_eq_sum, idleGateways_eq_sum]
    obtain ⟨r, hr, enabled, rfl⟩ := takes_update turn h
    rw [runAgent_notify enabled, hr]
    rfl
  rw [State.restBound, State.restBound, Scope.step_keeps_cfg h, same]
  omega

/-- Every step of the PLIC's own that an undisturbed machine takes brings it nearer to rest. -/
theorem restBound_lt_of_takes {s t : State} {a : AgentStep} (alone : s.todo = []) (turn : s.takes a)
    (h : step s = .next t) : t.restBound < s.restBound := by
  cases a with
  | gwLevel n => exact restBound_lt_of_forwarded alone h (takes_forwards (.inl rfl) turn h)
  | gwCounted n => exact restBound_lt_of_forwarded alone h (takes_forwards (.inr rfl) turn h)
  | notify c k => exact restBound_lt_of_notify turn h

/-- Left alone, the machine comes to rest within the bound, whichever of its steps it takes; the
invariants of R36 are kept on the way. -/
theorem run_reaches_rest {b : Nat} {s : State} (bound : s.restBound ≤ b) (inv : s.Inv)
    (alone : s.todo = []) :
    ∃ k t, k ≤ b ∧ core.run k s = .next t ∧ t.atRest = true ∧ t.Inv := by
  induction b generalizing s with
  | zero =>
    rcases atRest_or_takes alone with rest | ⟨a, turn⟩
    · exact ⟨0, s, le_rfl, rfl, rest, inv⟩
    · obtain ⟨u, h⟩ := takes_answered turn
      have nearer := restBound_lt_of_takes alone turn h
      omega
  | succ b ih =>
    rcases atRest_or_takes alone with rest | ⟨a, turn⟩
    · exact ⟨0, s, Nat.zero_le _, rfl, rest, inv⟩
    · obtain ⟨u, h⟩ := takes_answered turn
      have nearer := restBound_lt_of_takes alone turn h
      obtain ⟨k, t, le, run, rest⟩ :=
        ih (by omega) (stepKeepsInvariants s u inv h) (step_keeps_alone alone h)
      exact ⟨k + 1, t, by omega, (run_succ core k s u h).trans run, rest⟩

/-- Settles O51: at rest every queue is empty, so the last change told is the present `eip` (R182, R33). -/
theorem everyEipChangeIsDelivered : Obligations.EveryEipChangeIsDelivered := by
  intro s inv alone
  obtain ⟨k, t, le, run, rest, invAtRest⟩ := run_reaches_rest le_rfl inv alone
  obtain ⟨_, disabled⟩ := atRest_iff.mp rest
  refine ⟨k, t, le, run, rest, step_of_atRest rest, fun c hc => ?_,
    fun n => ⟨disabled (.gwLevel n), disabled (.gwCounted n)⟩⟩
  have last := invAtRest.nq_last c (hasContext_iff.mpr hc)
  rwa [nqAt_of_atRest rest] at last

/-! ## Fair runs -/

/-- The request of `n` is forwarded after point `i` of the run. -/
def ForwardedAfter (σ : Nat → State) (n i : Nat) : Prop :=
  ∃ j, i < j ∧ (σ j).ipAt n = true ∧ (σ j).busyAt n = true

/-- While the gateway is idle, a step either forwards its request or leaves it idle with its counter as it
was: edges are counted at busy gateways only (R165). -/
theorem step_of_idle {s t : State} {n : Nat} (h : step s = .next t) (idle : s.busyAt n = false) :
    Forwarded s t n ∨ (t.busyAt n = false ∧ t.countAt n = s.countAt n) := by
  obtain ⟨u, effect, ht⟩ := step_effect h
  have hbusy : t.busyAt n = u.busyAt n := by rw [ht]; rfl
  have hip : t.ipAt n = u.ipAt n := by rw [ht]; rfl
  have hcount : t.countAt n = u.countAt n := by rw [ht]; rfl
  rw [Forwarded, hbusy, hip, hcount]
  cases effect with
  | complete _ _ => exact .inr ⟨by simp [State.setBusy_busyAt, idle], rfl⟩
  | forward source idle' =>
    exact (forward_bits source idle' n).symm.imp_right fun keep => ⟨keep.2.trans idle, rfl⟩
  | @forwardCounted m source idle' _ _ =>
    by_cases named : n = m
    · subst named
      exact .inl (forwarded_forward source idle)
    · refine .inr ⟨?_, ?_⟩
      · rw [State.setCount_busyAt, forward_busyAt_of_source source, if_neg named, idle]
      · rw [State.setCount_countAt, if_neg fun h => named h.1]
        rfl
  | @countEdge m _ busy _ =>
    have other : n ≠ m := fun named => by simp [named, busy] at idle
    exact .inr ⟨idle, by rw [State.setCount_countAt, if_neg fun h => other h.1]⟩
  | _ => exact .inr ⟨idle, rfl⟩

section
variable {σ : Nat → State} {n i : Nat}

/-- A gateway of a run whose request is never forwarded stays idle, and its counter stays as it is. -/
theorem idle_of_not_forwardedAfter (run : FairRun σ) (idle : (σ i).busyAt n = false)
    (never : ¬ ForwardedAfter σ n i) (j : Nat) (hj : i ≤ j) :
    (σ j).busyAt n = false ∧ (σ j).countAt n = (σ i).countAt n := by
  induction j, hj using Nat.le_induction with
  | base => exact ⟨idle, rfl⟩
  | succ j hj ih =>
    obtain ⟨t, l, h, next⟩ := run.steps j
    rcases step_of_idle h ih.1 with ⟨_, busy, pending⟩ | ⟨still, count⟩
    · exact absurd ⟨j + 1, by omega, by rw [next]; exact pending, by rw [next]; exact busy⟩ never
    · rw [next]
      exact ⟨still, count.trans ih.2⟩

/-- A gateway step that is taken in a run forwards the request by the next state. -/
theorem forwardedAfter_of_takes (run : FairRun σ) {a : AgentStep} (gateway : forwardsFor n a)
    {j : Nat} (hj : i ≤ j) (turn : (σ j).takes a) : ForwardedAfter σ n i := by
  obtain ⟨t, l, h, next⟩ := run.steps j
  obtain ⟨_, busy, pending⟩ := takes_forwards gateway turn h
  exact ⟨j + 1, by omega, by rw [next]; exact pending, by rw [next]; exact busy⟩

theorem fairRun_cfg (run : FairRun σ) (j : Nat) (hj : i ≤ j) : (σ j).cfg = (σ i).cfg :=
  run.induct (fun s => s.cfg = (σ i).cfg) (fun _ _ hs h => (Scope.step_keeps_cfg h).trans hs)
    (fun _ _ hs => hs) i rfl j hj

end

/-- Settles O52, by contradiction: a gateway whose request is never forwarded stays idle, so its step stays
enabled and is taken at last (R170), which forwards the request. -/
theorem fairRunForwardsRequests : Obligations.FairRunForwardsRequests := by
  intro σ n i run pos le idle
  have source : ∀ j, i ≤ j → (σ j).hasSource n = true := fun j hj =>
    hasSource_iff.mpr ⟨pos, by rwa [fairRun_cfg run j hj]⟩
  have kindOf : ∀ j, i ≤ j → (σ j).kindOf n = (σ i).cfg.gwKind.get n := fun j hj => by
    rw [State.kindOf, fairRun_cfg run j hj]
  refine ⟨fun kind sig => ?_, fun kind waiting => ?_⟩ <;> by_contra never <;>
    have quiet := idle_of_not_forwardedAfter run idle never
  · obtain ⟨j, hj, turn⟩ := run.levelFair n i fun j hj =>
      levelEnabled_iff.mpr ⟨source j hj, (kindOf j hj).trans kind, (quiet j hj).1, sig j hj⟩
    exact never (forwardedAfter_of_takes run (.inl rfl) hj turn)
  · obtain ⟨j, hj, turn⟩ := run.countedFair n i fun j hj =>
      countedEnabled_iff.mpr ⟨source j hj, (kindOf j hj).trans kind, (quiet j hj).1,
        (quiet j hj).2.symm ▸ waiting⟩
    exact never (forwardedAfter_of_takes run (.inr rfl) hj turn)

end Sys2Proof.Proofs.Gateways
end

section
/-! PROOFS. The whole machine: the life of a source (R195), and the canonical form of the register banks. -/

namespace Sys2Proof.Proofs.WholeMachine

open Sys2Proof.Machine Sys2Proof.Proofs.Banks Sys2Proof.Proofs.Memory

/-! ## The life of a source -/

/-- Settles O44: of all that a step can do to a source (`step_request`), a forwarded request leads to
pending, a claim takes the pending bit and leaves the gateway, and a completion frees the gateway and leaves
the pending bit. -/
theorem sourceLifeCycle : Obligations.SourceLifeCycle := by
  intro s t n h
  rcases step_request h n with ⟨keepIp, keepBusy⟩ | ⟨idle, busy, pending⟩ |
    ⟨_, _, _, _, cleared, keepBusy⟩ | ⟨_, _, _, _, _, keepIp, freed⟩
  · exact .inl (by rw [keepIp, keepBusy])
  · rw [idle, busy, pending]
    cases s.ipAt n <;> simp
  · rw [cleared, keepBusy]
    cases s.ipAt n <;> cases s.busyAt n <;> simp
  · rw [keepIp, freed]
    cases s.ipAt n <;> cases s.busyAt n <;> simp

/-! ## The canonical form -/

/-- A write lists no entry but the written one that was not listed before. -/
theorem mem_of_mem_set {α : Type} [DecidableEq α] {t : Table α} {i : Nat} {v : α} {e : Nat × α}
    (listed : e ∈ (t.set i v).exc) : e = (i, v) ∨ e ∈ t.exc := by
  have kept : e ∈ dropEntry i t.exc → e ∈ t.exc := List.mem_of_mem_filter
  unfold Table.set at listed
  split at listed
  · exact .inr (kept listed)
  · exact ((mem_insertEntry i v _ e).mp listed).imp_right kept

theorem rowsWf_iff {t : Table (Table Bool)} :
    rowsWf t = true ↔ t.wf = true ∧ t.dflt.wf = true ∧ ∀ e ∈ t.exc, e.2.wf = true := by
  simp only [rowsWf, Bool.and_eq_true, List.all_eq_true]

/-- The write of a canonical row keeps both levels canonical. -/
theorem rowsWf_set {t : Table (Table Bool)} (wf : rowsWf t = true) (c : Nat) {row : Table Bool}
    (rowWf : row.wf = true) : rowsWf (t.set c row) = true := by
  obtain ⟨table, dflt, rows⟩ := rowsWf_iff.mp wf
  refine rowsWf_iff.mpr ⟨Table.wf_set t c row table, dflt, fun e listed => ?_⟩
  rcases mem_of_mem_set listed with rfl | old
  · exact rowWf
  · exact rows e old

theorem effect_keeps_canonical {s u : State} (canonical : s.Canonical) (effect : Effect s u) :
    u.Canonical := by
  cases effect with
  | unchanged => exact canonical
  | respond v => exact { canonical with }
  | writePriority _ _ => exact { canonical with prio := Table.wf_set _ _ _ canonical.prio }
  | @writeEnable c w v _ _ =>
    obtain ⟨_, rows⟩ := wf_of_rowsWf canonical.ie
    exact { canonical with ie := rowsWf_set canonical.ie c (enableRow_wf s c w v 32 (rows c)) }
  | writeThreshold _ _ => exact { canonical with thr := Table.wf_set _ _ _ canonical.thr }
  | claim _ _ _ => exact { canonical with ip := Table.wf_set _ _ _ canonical.ip }
  | complete _ _ => exact { canonical with gwBusy := Table.wf_set _ _ _ canonical.gwBusy }
  | forward _ _ =>
    exact { canonical with
      ip := Table.wf_set _ _ _ canonical.ip
      gwBusy := Table.wf_set _ _ _ canonical.gwBusy }
  | forwardCounted _ _ _ _ =>
    exact { canonical with
      ip := Table.wf_set _ _ _ canonical.ip
      gwBusy := Table.wf_set _ _ _ canonical.gwBusy
      gwCount := Table.wf_set _ _ _ canonical.gwCount }
  | countEdge _ _ _ => exact { canonical with gwCount := Table.wf_set _ _ _ canonical.gwCount }
  | setLevel _ _ => exact { canonical with sig := Table.wf_set _ _ _ canonical.sig }
  | deliver _ =>
    exact { canonical with
      notif := Table.wf_set _ _ _ canonical.notif
      nq := Table.wf_set _ _ _ canonical.nq }

theorem noteEip_keeps_canonical {u : State} (canonical : u.Canonical) (s : State) :
    (noteEip s u).Canonical :=
  { canonical with nq := queueChanges_wf s u _ canonical.nq }

/-- Settles O47: the effect of a step and the queuing after it write banks through `Table.set`, and the
schedule is no bank. -/
theorem stepKeepsCanonicalForm : Obligations.StepKeepsCanonicalForm := by
  intro s t canonical h
  obtain ⟨u, effect, ht⟩ := step_effect h
  have noted := noteEip_keeps_canonical (effect_keeps_canonical canonical effect) s
  rw [ht]
  exact { noted with }

end Sys2Proof.Proofs.WholeMachine
end

section
/-! PROOFS. External interrupt pending and its way to the target: where it is set (R180), what a delivery
takes from the queue (R182), the bit of the hart it ends in (R185), and that a fair run delivers it (R183). -/

namespace Sys2Proof.Proofs.Delivery

open Sys2Proof.Machine Sys2Proof.Proofs.Banks Sys2Proof.Proofs.Notification Sys2Proof.Proofs.Gateways

/-! ## The registers that exist -/

theorem ipAt_of_source {s : State} {n : Nat} (source : s.hasSource n = true) :
    s.ipAt n = s.ip.get n := by
  rw [State.ipAt, source, Bool.true_and]

theorem thrAt_of_context {s : State} {c : Nat} (context : s.hasContext c = true) :
    s.thrAt c = s.thr.get c := if_pos context

theorem notifAt_of_context {s : State} {c : Nat} (context : s.hasContext c = true) :
    s.notifAt c = s.notif.get c := by
  rw [State.notifAt, context, Bool.true_and]

theorem nqAt_of_context {s : State} {c : Nat} (context : s.hasContext c = true) :
    s.nqAt c = s.nq.get c := if_pos context

/-! ## External interrupt pending -/

/-- The condition of R180, register by register. -/
theorem activeFor_iff_registers {s : State} {c n : Nat} :
    s.activeFor c n = true ↔
      1 ≤ n ∧ n ≤ s.cfg.nsrc ∧ c < s.cfg.nctx ∧ s.ip.get n = true ∧ (s.ie.get c).get n = true ∧
        (s.thr.get c).toNat < (s.prio.get n).toNat := by
  rw [activeFor_iff, Complete.ieAt_iff]
  constructor
  · rintro ⟨ip, ⟨exist, pos, le, ie⟩, above⟩
    have source := hasSource_iff.mpr ⟨pos, le⟩
    rw [ipAt_of_source source] at ip
    rw [thrAt_of_context (hasContext_iff.mpr exist), Priority.prioAt_of_hasSource source] at above
    exact ⟨pos, le, exist, ip, ie, BitVec.lt_def.mp above⟩
  · rintro ⟨pos, le, exist, ip, ie, above⟩
    have source := hasSource_iff.mpr ⟨pos, le⟩
    rw [ipAt_of_source source, thrAt_of_context (hasContext_iff.mpr exist),
      Priority.prioAt_of_hasSource source]
    exact ⟨ip, ⟨exist, pos, le, ie⟩, BitVec.lt_def.mpr above⟩

/-- Settles O31: `eip` says that some source is active; a priority of 0 is above no threshold, and any other
is above the threshold 0. -/
theorem eipIsSomeActiveSource : Obligations.EipIsSomeActiveSource := by
  refine ⟨fun s c => ?_, fun s c zero => ?_, fun s c n thr ip ie positive => ?_⟩
  · rw [State.eip_iff]
    exact exists_congr fun n => activeFor_iff_registers
  · by_contra set
    obtain ⟨n, active⟩ := (s.eip_iff c).mp (by simpa using set)
    obtain ⟨ip, ie, above⟩ := activeFor_iff.mp active
    rw [zero n ip ie] at above
    exact BitVec.not_lt_zero above
  · have above : s.thrAt c < s.prioAt n := by
      rw [thr]
      exact (BitVec.pos_iff_ne_zero _).mpr positive
    exact (s.eip_iff c).mpr ⟨n, activeFor_iff.mpr ⟨ip, ie, above⟩⟩

/-! ## The delivery of queued changes -/

/-- The last of the first `k` queued changes. -/
theorem getLastD_take {l : List Bool} {k : Nat} (pos : 1 ≤ k) (le : k ≤ l.length) (b : Bool) :
    (l.take k).getLastD b = l[k - 1]'(by omega) := by
  have nonzero : k ≠ 0 := by omega
  have inside : k - 1 < l.length := by omega
  simp [List.getLastD_eq_getLast?, List.getLast?_take, nonzero, inside]

theorem deliver_nqAt {s : State} {c k : Nat} (context : s.hasContext c = true) (d : Nat) :
    (s.deliver c k).nqAt d = if d = c then (s.nqAt c).drop k else s.nqAt d := by
  rw [State.deliver, State.setNq_nqAt]
  exact if_congr (and_iff_left_of_imp fun named => named ▸ context) rfl rfl

theorem deliver_notifAt {s : State} {c k : Nat} (enabled : s.notifyEnabled c k = true) (d : Nat) :
    (s.deliver c k).notifAt d =
      if d = c then ((s.nqAt c).take k).getLastD (s.notifAt c) else s.notifAt d := by
  have context := hasContext_of_notifyEnabled enabled
  rw [State.deliver, State.setNq_notifAt, State.setNotif_notifAt]
  exact ite_congr rfl (fun named => by rw [named, context, Bool.true_and]) fun _ => rfl

/-- Settles O39: the step is enabled, and as a delivery changes no `eip`, nothing is queued after it. -/
theorem notifyDeliversQueuedChanges : Obligations.NotifyDeliversQueuedChanges := by
  intro s c k rest turn exist pos le
  have context : (s.setTodo rest).hasContext c = true := hasContext_iff.mpr exist
  have queue : (s.setTodo rest).nqAt c = s.nq.get c := nqAt_of_context context
  have enabled : (s.setTodo rest).notifyEnabled c k = true :=
    notifyEnabled_iff.mpr ⟨pos, by rwa [queue]⟩
  have quiet : ∀ d, ((s.setTodo rest).deliver c k).eip d = (s.setTodo rest).eip d := fun _ => rfl
  refine ⟨_, step_scheduled_agent turn, ?_⟩
  rw [runAgent_notify enabled, noteEip_same _ _ quiet]
  refine ⟨rfl, fun d => ?_, fun d => ?_⟩
  · rw [deliver_nqAt context, queue]
    rfl
  · rw [deliver_notifAt enabled, queue, getLastD_take pos le]
    rfl

/-! ## The bit of the hart -/

theorem anyNotified_iff {s : State} {h : Nat} {m : PrivMode} {k : Nat} :
    anyNotified s h m k = true ↔
      ∃ c, c < k ∧ s.cfg.ctxMap.get c = .hart h m ∧ s.notifAt c = true := by
  induction k with
  | zero => simp [anyNotified]
  | succ k ih =>
    simp only [anyNotified, Bool.or_eq_true, Bool.and_eq_true, decide_eq_true_eq, ih,
      Nat.lt_succ_iff_lt_or_eq, or_and_right, exists_or, exists_eq_left, or_comm]

/-- The disjunction over the contexts of one hart and mode, where there is one (R185). -/
theorem anyNotified_of_unique {s : State} {c h : Nat} {m : PrivMode} (exist : c < s.cfg.nctx)
    (target : s.cfg.ctxMap.get c = .hart h m)
    (unique : ∀ d, d < s.cfg.nctx → s.cfg.ctxMap.get d = .hart h m → d = c) :
    anyNotified s h m s.cfg.nctx = s.notif.get c := by
  rw [← notifAt_of_context (hasContext_iff.mpr exist), Bool.eq_iff_iff, anyNotified_iff]
  constructor
  · rintro ⟨d, exists', target', notified⟩
    rwa [← unique d exists' target']
  · exact fun notified => ⟨c, exist, target, notified⟩

/-- Settles O41: `meip` and `seip` are that disjunction for the two modes. -/
theorem notificationIsMeipOrSeip : Obligations.NotificationIsMeipOrSeip := by
  intro s c h m exist target unique
  have bit := anyNotified_of_unique exist target unique
  exact ⟨by rintro rfl; exact bit, by rintro rfl; exact bit⟩

/-! ## Fair runs -/

section
variable {σ : Nat → State} {c i : Nat}

theorem fairRun_inv (run : FairRun σ) (inv : (σ i).Inv) (j : Nat) (hj : i ≤ j) : (σ j).Inv :=
  run.induct State.Inv (fun s t hs h => stepKeepsInvariants s t hs h)
    (fun _ _ hs => { hs with }) i inv j hj

/-- Where `eip(c)` does not change at a step of a run, the queue of `c` only loses changes, from its front
(R182). -/
theorem fairRun_nqAt_drop (run : FairRun σ) (exist : c < (σ i).cfg.nctx)
    (still : (σ (i + 1)).eip c = (σ i).eip c) : ∃ k, (σ (i + 1)).nqAt c = ((σ i).nqAt c).drop k := by
  obtain ⟨t, l, h, next⟩ := run.steps i
  obtain ⟨k, _, queue, _⟩ := queueIsTheHistoryOfEip (σ i) t c h exist
  rw [next, State.setTodo_eip] at still
  rw [if_pos still, List.append_nil] at queue
  exact ⟨k, by rw [next, State.setTodo_nqAt, queue]⟩

/-- A notification that is taken in a run makes the queue of its context shorter. -/
theorem fairRun_nqAt_lt_of_takes (run : FairRun σ) {k : Nat} (turn : (σ i).takes (.notify c k)) :
    ((σ (i + 1)).nqAt c).length < ((σ i).nqAt c).length := by
  obtain ⟨t, l, h, next⟩ := run.steps i
  obtain ⟨pos, le⟩ := notifyEnabled_iff.mp turn.2
  rw [next, State.setTodo_nqAt, takes_notify_nqAt turn h, if_pos rfl, List.length_drop]
  omega

end

section
variable {σ : Nat → State} {c i : Nat} (run : FairRun σ) (exist : c < (σ i).cfg.nctx)
  (still : ∀ j, i ≤ j → (σ (j + 1)).eip c = (σ j).eip c)
include run exist still

/-- While `eip(c)` does not change, the queue of `c` gets no longer. -/
theorem nqAt_length_antitone (j : Nat) (hj : i ≤ j) (k : Nat) (hk : j ≤ k) :
    ((σ k).nqAt c).length ≤ ((σ j).nqAt c).length := by
  induction k, hk using Nat.le_induction with
  | base => exact le_rfl
  | succ k hk ih =>
    have present : c < (σ k).cfg.nctx := by rwa [fairRun_cfg run k (hj.trans hk)]
    obtain ⟨m, queue⟩ := fairRun_nqAt_drop run present (still k (hj.trans hk))
    rw [queue, List.length_drop]
    omega

/-- While `eip(c)` does not change, the queue of `c` is empty at last: where it is not, a notification is
taken (R183), which makes it shorter for good. -/
theorem exists_nqAt_eq_nil (b j : Nat) (hj : i ≤ j) (bound : ((σ j).nqAt c).length ≤ b) :
    ∃ k, i ≤ k ∧ (σ k).nqAt c = [] := by
  induction b generalizing j with
  | zero => exact ⟨j, hj, List.length_eq_zero_iff.mp (Nat.le_zero.mp bound)⟩
  | succ b ih =>
    by_contra never
    obtain ⟨k, m, hk, turn⟩ := run.notifyFair c j fun k hk empty => never ⟨k, hj.trans hk, empty⟩
    have shorter := fairRun_nqAt_lt_of_takes run turn
    have before := nqAt_length_antitone run exist still j hj k hk
    exact never (ih (k + 1) (by omega) (by omega))

end

/-- Settles O53: the queue is empty at last and stays so, and what was told last is then the present `eip`
(`State.Inv.nq_last`). -/
theorem fairRunDeliversEip : Obligations.FairRunDeliversEip := by
  intro σ c i run inv exist constant
  have still : ∀ j, i ≤ j → (σ (j + 1)).eip c = (σ j).eip c := fun j hj =>
    (constant (j + 1) (by omega)).trans (constant j hj).symm
  obtain ⟨k, hk, empty⟩ := exists_nqAt_eq_nil run exist still _ i le_rfl le_rfl
  refine ⟨k, hk, fun j hj => ?_⟩
  have emptyAt : (σ j).nqAt c = [] := by
    have bound := nqAt_length_antitone run exist still k hk j hj
    rw [empty] at bound
    exact List.length_eq_zero_iff.mp (Nat.le_zero.mp bound)
  have context : (σ j).hasContext c = true :=
    hasContext_iff.mpr (by rwa [fairRun_cfg run j (hk.trans hj)])
  have last := (fairRun_inv run inv j (hk.trans hj)).nq_last c context
  rw [emptyAt, constant j (hk.trans hj)] at last
  exact ⟨emptyAt, last⟩

end Sys2Proof.Proofs.Delivery
end
